-- ==== Sys2Proof/Word.lean ====
section
/-! DEFINITION. The word of the block: one byte (00_scope.md R8). -/

namespace Sys2Proof

/-- A byte, 0 to 255 (00_scope.md R7 `BYTE_BITS`, R8). PRESUMED for bytes other than `len` (G1, log 26). -/
abbrev Byte := BitVec 8

end Sys2Proof
end

