-- ==== Sys2Proof/Config.lean ====
section
/-! DEFINITION. The parameters of 00_scope.md R7 and the opaque types the block never inspects (D19). -/

namespace Sys2Proof

/-- The address of a listener, never inspected by the block (00_scope.md R7, 10_state.md R24, D19).
DESIGN CHOICE: any byte string (log 6). -/
structure Listener where
  address : List Byte
  deriving DecidableEq, Repr, Inhabited

/-- The "string tag" of a reader, never inspected by the block (00_scope.md R7, 10_state.md R25, D19).
DESIGN CHOICE: any byte string (log 6). -/
structure Name where
  text : List Byte
  deriving DecidableEq, Repr, Inhabited

/-- The type of a notification's first component (30_encoding.md R73, D11). DESIGN CHOICE (log 6). -/
structure Tag where
  code : List Byte
  deriving DecidableEq, Repr, Inhabited

/-- The delivery variant (10_state.md R23): there is no third value. -/
inductive Mode where
  | active
  | passive
  deriving DecidableEq, Repr

/-- The Boolean `active` of the configure options is the mode (10_state.md R23). -/
def Mode.ofActive : Bool → Mode
  | true => .active
  | false => .passive

namespace Config

/-- `MIN_FRAME` (00_scope.md R7). -/
def minFrame : Nat := 4

/-- `PROBE_MIN`: 5 and not `MIN_FRAME` (00_scope.md R7; 90_conflicts.md C3). -/
def probeMin : Nat := 5

/-- `MAX_PAYLOAD` (00_scope.md R7). -/
def maxPayload : Nat := 253

/-- `MAX_FRAME` (00_scope.md R7). -/
def maxFrame : Nat := 257

/-- `RESYNC_SKIP` (00_scope.md R7). -/
def resyncSkip : Nat := 1

/-- `INIT_MODE` when START gives no mode (00_scope.md R7). DESIGN CHOICE of the spec, D6 (log 3). -/
def initMode : Mode := .passive

/-- `INIT_LISTENER` when START gives no listener (00_scope.md R7). DESIGN CHOICE of the spec, D6 (log 3). -/
def initListener : Option Listener := none

/-- `NAME_DEFAULT`, an open parameter (00_scope.md R7, D6): no value (log 4). -/
opaque nameDefault : Name

/-- `NOTIFY_TAG`, an open parameter, the same in every notification (00_scope.md R7, D11): no value (log 5). -/
opaque notifyTag : Tag

end Config
end Sys2Proof
end

