-- ==== Sys2Proof/Machine/Layout.lean ====
section
/-! DEFINITION. Bytes, slices and the layout of a frame (00_scope.md R8; 30_encoding.md R60 to R67). -/

namespace Sys2Proof.Machine

/-- `s[i ..< j]` (00_scope.md R8). -/
def slice (s : List Byte) (i j : Nat) : List Byte := (s.take j).drop i

/-- `XorFold(s)`: the exclusive-or of all bytes, `0x00` for none (00_scope.md R8; 40_codec.md R80). -/
def xorFold (s : List Byte) : Byte := s.foldl (fun acc b => acc ^^^ b) 0#8

/-- `f[i]` as a byte; read only where it exists, 0 elsewhere. -/
def byteAt (f : List Byte) (i : Nat) : Byte := f.getD i 0#8

/-- The wire field `len`, as the natural number it is used as (30_encoding.md R62). -/
def frameLen (f : List Byte) : Nat := (byteAt f 1).toNat

/-- The length the head declares, `len + 2`, never reduced modulo 256 (30_encoding.md R62). -/
def declaredLength (f : List Byte) : Nat := frameLen f + 2

/-- The frame without its last byte: what the checksum covers (30_encoding.md R65). -/
def frameBody (f : List Byte) : List Byte := slice f 0 (f.length - 1)

/-- The last byte, the checksum field (30_encoding.md R65). -/
def frameChecksum (f : List Byte) : Byte := byteAt f (f.length - 1)

/-- The payload, positions 3 to `len` inclusive: `f[3 ..< |f|-1]` (30_encoding.md R64; 90_conflicts.md C2). -/
def framePayload (f : List Byte) : List Byte := slice f 3 (f.length - 1)

/-- The `len` byte of a payload of `n` bytes, `n + 2` (30_encoding.md R62, R67). -/
def lenByte (n : Nat) : Byte := BitVec.ofNat 8 (n + 2)

/-- The five fields in wire order, `src` first (30_encoding.md R60; 20_memory.md R42). -/
def frameBytes (src len dst : Byte) (payload : List Byte) (checksum : Byte) : List Byte :=
  src :: len :: dst :: (payload ++ [checksum])

end Sys2Proof.Machine
end

