-- ==== Sys2Proof/Machine/Flags.lean ====
section
/-! DEFINITION. The block has no flags (10_state.md R28); its conditions are the validity conditions V1 to V4 of a
frame (30_encoding.md R68) and the selection conditions of an extraction pass (30_encoding.md R75). -/

namespace Sys2Proof.Machine

/-- V1: `|f| >= 2`. DESIGN CHOICE of the spec, D4 (log 9). -/
def validV1 (f : List Byte) : Bool := 2 ≤ f.length

/-- V2: `|f| == f[1] + 2`, in natural arithmetic. -/
def validV2 (f : List Byte) : Bool := f.length == declaredLength f

/-- V3: the last byte is the exclusive-or of the others. -/
def validV3 (f : List Byte) : Bool := xorFold (frameBody f) == frameChecksum f

/-- V4: `f[1] >= 2`. DESIGN CHOICE of the spec, D3 (log 9). -/
def validV4 (f : List Byte) : Bool := 2 ≤ frameLen f

/-- A valid frame (30_encoding.md R68). -/
def frameValid (f : List Byte) : Bool := validV1 f && validV2 f && validV3 f && validV4 f

/-- Step 1 stops: `|b| < 5` (41_framebuffer.md R102). -/
def tooShort (b : List Byte) : Bool := b.length < Config.probeMin

/-- Step 2 stops: `|b| - 2 < b[1]`; tested only when step 1 does not stop (41_framebuffer.md R103). -/
def incomplete (b : List Byte) : Bool := b.length - 2 < frameLen b

/-- The extractor stops on this buffer: X_SHORT or X_WAIT (41_framebuffer.md R108). -/
def settled (b : List Byte) : Bool := tooShort b || incomplete b

end Sys2Proof.Machine
end

