-- ==== Sys2Proof/Syntax.lean ====
section
/-! DEFINITION. The operations of the block: one constructor per row of spec/opcode_table.json. -/

namespace Sys2Proof

/-- The address by which a caller reaches a reader: the number of STARTs before its own.
DESIGN CHOICE (log 2); the spec gives readers no identifier (60_exceptions.md R153). -/
abbrev ReaderId := Nat

/-- The options record of CONFIGURE and the optional arguments of START (30_encoding.md R74;
70_reset_and_hazards.md R160). `none` is a field left out; a listener given may itself be `none`. -/
structure Options where
  active : Option Bool
  listener : Option (Option Listener)
  name : Option Name
  deriving DecidableEq, Repr

/-- One constructor per row of the operation table. -/
inductive Instr where
  /-- START (70_reset_and_hazards.md R160). -/
  | start (o : Options)
  /-- STOP (70_reset_and_hazards.md R161). -/
  | stop (r : ReaderId)
  /-- INGEST (42_reader.md R120). -/
  | ingest (r : ReaderId) (bytes : List Byte)
  /-- DRAIN (42_reader.md R122). -/
  | drain (r : ReaderId)
  /-- CONFIGURE (42_reader.md R123). -/
  | configure (r : ReaderId) (o : Options)
  /-- CHECKSUM (40_codec.md R80). -/
  | checksum (bytes : List Byte)
  /-- ENCODE (40_codec.md R81); the operand is the value as written, a Message only if its payload fits. -/
  | encode (src dst : Byte) (payload : List Byte)
  /-- DECODE (40_codec.md R82). -/
  | decode (frame : List Byte)
  /-- ISVALID (40_codec.md R83). -/
  | isvalid (frame : List Byte)
  /-- APPEND (41_framebuffer.md R100). -/
  | append (buffer bytes : List Byte)
  /-- EXTRACTALL (41_framebuffer.md R101). -/
  | extractall (buffer : List Byte)
  /-- Select code 0101: nothing (30_encoding.md R72). -/
  | unassigned0101
  /-- Select code 0110: nothing (30_encoding.md R72). -/
  | unassigned0110
  /-- Select code 0111: nothing (30_encoding.md R72). -/
  | unassigned0111
  /-- Select code 1110: nothing (30_encoding.md R72). -/
  | unassigned1110
  /-- Select code 1111: nothing (30_encoding.md R72). -/
  | unassigned1111
  /-- X_SHORT, a pass of the extraction in progress (41_framebuffer.md R102). -/
  | xShort
  /-- X_WAIT, a pass of the extraction in progress (41_framebuffer.md R103). -/
  | xWait
  /-- X_EMIT, a pass of the extraction in progress (41_framebuffer.md R104). -/
  | xEmit
  /-- X_DROP, a pass of the extraction in progress (41_framebuffer.md R105). -/
  | xDrop
  /-- FRAME, the wire format as five fields (30_encoding.md R60). -/
  | frame (src len dst : Byte) (payload : List Byte) (checksum : Byte)
  /-- DELIVER, the delivery phase of INGEST (42_reader.md R121). -/
  | deliver (r : ReaderId)
  /-- NOTIFY, the push of the oldest queued Message (42_reader.md R124). -/
  | notify (r : ReaderId)
  deriving DecidableEq, Repr

/-- Why bytes are no command, or no frame. DESIGN CHOICE for the commands (log 1, log 30). -/
inductive Reject where
  /-- The bytes end inside a command. -/
  | truncated
  /-- The first byte has a bit above the four select bits. -/
  | selectTooWide
  /-- A flag byte is neither 0 nor 1. -/
  | badFlag
  /-- The bytes are not a valid frame (30_encoding.md R68). -/
  | invalidFrame
  deriving DecidableEq, Repr

end Sys2Proof
end

