-- ==== Sys2Proof/WellFormed.lean ====
section
/-! DEFINITION. Which operands the spec gives an operation a meaning for (60_exceptions.md R154; 30_encoding.md R68). -/

namespace Sys2Proof

/-- The value is a Message (10_state.md R26): at most 253 payload bytes. -/
def payloadFits (payload : List Byte) : Bool := payload.length ≤ Config.maxPayload

/-- All three fields are there (30_encoding.md R74). -/
def Options.complete (o : Options) : Bool := o.active.isSome && o.listener.isSome && o.name.isSome

/-- Well-formed: ENCODE of a Message, CONFIGURE with all three fields, FRAME of a valid frame. -/
def Instr.wellFormed : Instr → Bool
  | .start _ => true
  | .stop _ => true
  | .ingest _ _ => true
  | .drain _ => true
  | .configure _ o => o.complete
  | .checksum _ => true
  | .encode _ _ payload => payloadFits payload
  | .decode _ => true
  | .isvalid _ => true
  | .append _ _ => true
  | .extractall _ => true
  | .unassigned0101 => true
  | .unassigned0110 => true
  | .unassigned0111 => true
  | .unassigned1110 => true
  | .unassigned1111 => true
  | .xShort => true
  | .xWait => true
  | .xEmit => true
  | .xDrop => true
  | .frame src len dst payload c => Machine.frameValid (Machine.frameBytes src len dst payload c)
  | .deliver _ => true
  | .notify _ => true

end Sys2Proof
end

