-- ==== Sys2Proof/Decode.lean ====
section
/-! DEFINITION. Decoding commands and frames, and after it the encoders.
The spec gives a command its 4-bit select code (30_encoding.md R72) and a frame its layout (30_encoding.md R60). How a
command's operands travel is DESIGN CHOICE (log 1): the first byte holds the select code in bits 3:0; then the operands
in the order of R72's table; a number is that many bytes 1 and a byte 0; a byte sequence is each byte behind a byte 1,
and a byte 0; a Boolean is a byte 0 or 1; an optional value is a byte 0, or a byte 1 and the value. -/

namespace Sys2Proof

/-- What reading a value from the front of some bytes gives: the value and the bytes after it. -/
abbrev Read (α : Type) := Except Reject (α × List Byte)

/-- Go on with the value read and the bytes after it. -/
def Read.next {α β : Type} (x : Read α) (k : α → List Byte → Read β) : Read β :=
  match x with
  | .error e => .error e
  | .ok (a, rest) => k a rest

/-- One byte. -/
def readByte : List Byte → Read Byte
  | [] => .error .truncated
  | b :: rest => .ok (b, rest)

/-- A flag byte: 0 or 1 and nothing else. -/
def readFlag : List Byte → Read Bool
  | [] => .error .truncated
  | b :: rest => if b = 0#8 then .ok (false, rest) else if b = 1#8 then .ok (true, rest) else .error .badFlag

/-- A reader address. -/
def readNat : List Byte → Read Nat
  | [] => .error .truncated
  | b :: rest =>
    if b = 0#8 then .ok (0, rest)
    else if b = 1#8 then (readNat rest).next fun n rest' => .ok (n + 1, rest')
    else .error .badFlag

/-- A byte sequence of any length. -/
def readBytes : List Byte → Read (List Byte)
  | [] => .error .truncated
  | [b] => if b = 0#8 then .ok ([], []) else if b = 1#8 then .error .truncated else .error .badFlag
  | b :: c :: rest =>
    if b = 0#8 then .ok ([], c :: rest)
    else if b = 1#8 then (readBytes rest).next fun bs rest' => .ok (c :: bs, rest')
    else .error .badFlag

/-- An optional value: absent behind a byte 0, present behind a byte 1. -/
def readOption {α : Type} (p : List Byte → Read α) (bs : List Byte) : Read (Option α) :=
  (readFlag bs).next fun present rest =>
    if present then (p rest).next fun a rest' => .ok (some a, rest') else .ok (none, rest)

/-- A field that is there unless the flag says it is left out. -/
def readField {α : Type} (p : List Byte → Read α) (bs : List Byte) : Read (Option α) :=
  (readFlag bs).next fun leftOut rest =>
    if leftOut then .ok (none, rest) else (p rest).next fun a rest' => .ok (some a, rest')

/-- A listener: its address. -/
def readListener (bs : List Byte) : Read Listener := (readBytes bs).next fun a rest => .ok (⟨a⟩, rest)

/-- A name: its text. -/
def readName (bs : List Byte) : Read Name := (readBytes bs).next fun a rest => .ok (⟨a⟩, rest)

/-- The optional arguments of START. -/
def readStartOptions (bs : List Byte) : Read Options :=
  (readOption readFlag bs).next fun a r1 =>
  (readOption (readOption readListener) r1).next fun l r2 =>
  (readOption readName r2).next fun n r3 => .ok (⟨a, l, n⟩, r3)

/-- The options record of CONFIGURE; a record that lacks a field is read as one that lacks it. -/
def readConfigureOptions (bs : List Byte) : Read Options :=
  (readField readFlag bs).next fun a r1 =>
  (readField (readOption readListener) r1).next fun l r2 =>
  (readField readName r2).next fun n r3 => .ok (⟨a, l, n⟩, r3)

/-- The command whose select code is `op`, with its operands read from the bytes after it (30_encoding.md R72). -/
def decodeOperands (op : Nat) (bs : List Byte) : Read Instr :=
  match op with
  | 0 => (readStartOptions bs).next fun o rest => .ok (.start o, rest)
  | 1 => (readNat bs).next fun r rest => .ok (.stop r, rest)
  | 2 => (readNat bs).next fun r r1 => (readBytes r1).next fun x rest => .ok (.ingest r x, rest)
  | 3 => (readNat bs).next fun r rest => .ok (.drain r, rest)
  | 4 => (readNat bs).next fun r r1 => (readConfigureOptions r1).next fun o rest => .ok (.configure r o, rest)
  | 5 => .ok (.unassigned0101, bs)
  | 6 => .ok (.unassigned0110, bs)
  | 7 => .ok (.unassigned0111, bs)
  | 8 => (readBytes bs).next fun x rest => .ok (.checksum x, rest)
  | 9 =>
    (readByte bs).next fun src r1 => (readByte r1).next fun dst r2 =>
    (readBytes r2).next fun p rest => .ok (.encode src dst p, rest)
  | 10 => (readBytes bs).next fun f rest => .ok (.decode f, rest)
  | 11 => (readBytes bs).next fun f rest => .ok (.isvalid f, rest)
  | 12 => (readBytes bs).next fun b r1 => (readBytes r1).next fun x rest => .ok (.append b x, rest)
  | 13 => (readBytes bs).next fun b rest => .ok (.extractall b, rest)
  | 14 => .ok (.unassigned1110, bs)
  | 15 => .ok (.unassigned1111, bs)
  | _ => .error .selectTooWide

/-- Read one command from the front of some bytes. Total; what is no command is rejected by name. -/
def decode : List Byte → Read Instr
  | [] => .error .truncated
  | c :: rest => decodeOperands c.toNat rest

/-- Read a whole frame as its five fields; anything but a valid frame is rejected (30_encoding.md R60, R68). -/
def decodeWire (f : List Byte) : Except Reject Instr :=
  if Machine.frameValid f then
    .ok (.frame (Machine.byteAt f 0) (Machine.byteAt f 1) (Machine.byteAt f 2) (Machine.framePayload f)
      (Machine.frameChecksum f))
  else .error .invalidFrame

/-- The select code of an operation (30_encoding.md R72; D2); the internal steps and the frame have none. -/
def Instr.selectCode : Instr → Option (BitVec 4)
  | .start _ => some 0b0000#4
  | .stop _ => some 0b0001#4
  | .ingest _ _ => some 0b0010#4
  | .drain _ => some 0b0011#4
  | .configure _ _ => some 0b0100#4
  | .checksum _ => some 0b1000#4
  | .encode _ _ _ => some 0b1001#4
  | .decode _ => some 0b1010#4
  | .isvalid _ => some 0b1011#4
  | .append _ _ => some 0b1100#4
  | .extractall _ => some 0b1101#4
  | .unassigned0101 => some 0b0101#4
  | .unassigned0110 => some 0b0110#4
  | .unassigned0111 => some 0b0111#4
  | .unassigned1110 => some 0b1110#4
  | .unassigned1111 => some 0b1111#4
  | .xShort => none
  | .xWait => none
  | .xEmit => none
  | .xDrop => none
  | .frame _ _ _ _ _ => none
  | .deliver _ => none
  | .notify _ => none

/-- The byte of a flag. -/
def putFlag (b : Bool) : List Byte := [if b then 1#8 else 0#8]

/-- The bytes of a reader address. -/
def putNat : Nat → List Byte
  | 0 => [0#8]
  | n + 1 => 1#8 :: putNat n

/-- The bytes of a byte sequence. -/
def putBytes : List Byte → List Byte
  | [] => [0#8]
  | b :: bs => 1#8 :: b :: putBytes bs

/-- The bytes of an optional value. -/
def putOption {α : Type} (p : α → List Byte) : Option α → List Byte
  | none => [0#8]
  | some a => 1#8 :: p a

/-- The bytes of a field that may be left out. -/
def putField {α : Type} (p : α → List Byte) : Option α → List Byte
  | none => [1#8]
  | some a => 0#8 :: p a

/-- The bytes of a listener. -/
def putListener (l : Listener) : List Byte := putBytes l.address

/-- The bytes of a name. -/
def putName (n : Name) : List Byte := putBytes n.text

/-- The bytes of START's arguments. -/
def putStartOptions (o : Options) : List Byte :=
  putOption putFlag o.active ++ putOption (putOption putListener) o.listener ++ putOption putName o.name

/-- The bytes of CONFIGURE's record. -/
def putConfigureOptions (o : Options) : List Byte :=
  putField putFlag o.active ++ putField (putOption putListener) o.listener ++ putField putName o.name

/-- The bytes of an operation's operands. -/
def Instr.operandBytes : Instr → List Byte
  | .start o => putStartOptions o
  | .stop r => putNat r
  | .ingest r x => putNat r ++ putBytes x
  | .drain r => putNat r
  | .configure r o => putNat r ++ putConfigureOptions o
  | .checksum x => putBytes x
  | .encode src dst p => src :: dst :: putBytes p
  | .decode f => putBytes f
  | .isvalid f => putBytes f
  | .append b x => putBytes b ++ putBytes x
  | .extractall b => putBytes b
  | .unassigned0101 => []
  | .unassigned0110 => []
  | .unassigned0111 => []
  | .unassigned1110 => []
  | .unassigned1111 => []
  | .xShort => []
  | .xWait => []
  | .xEmit => []
  | .xDrop => []
  | .frame _ _ _ _ _ => []
  | .deliver _ => []
  | .notify _ => []

/-- The bytes of a command; `none` for a row no caller can select. -/
def encode (i : Instr) : Option (List Byte) :=
  i.selectCode.map fun op => op.zeroExtend 8 :: i.operandBytes

/-- The bytes of a frame on the wire (30_encoding.md R60); `none` for what is no frame. -/
def encodeWire : Instr → Option (List Byte)
  | .frame src len dst payload checksum => some (Machine.frameBytes src len dst payload checksum)
  | _ => none

/-- The first bytes of an instruction as the table's numbering lays them out: bit 0 the least of the first byte. -/
def wordBytes (nbits w : Nat) : List Byte :=
  (List.range ((nbits + 7) / 8)).map fun k => BitVec.ofNat 8 (w / 2 ^ (8 * k))

/-- Those bytes with operand bytes of zeros behind them, more than any command needs. -/
def paddedBytes (nbits w : Nat) : List Byte := wordBytes nbits w ++ List.replicate 16 0#8

/-- The bytes of exactly the command that begins with these bits, operand bytes zero. -/
def commandBytes (nbits w : Nat) : List Byte :=
  match decode (paddedBytes nbits w) with
  | .ok (_, rest) => (paddedBytes nbits w).take ((paddedBytes nbits w).length - rest.length)
  | .error _ => paddedBytes nbits w

/-- The instruction the decoder reads from a row's bits, operand bytes zero. -/
def decodeTableWord (nbits w : Nat) : Option Instr :=
  if nbits = 0 then none
  else
    match decode (paddedBytes nbits w) with
    | .ok (i, _) => some i
    | .error _ => none

end Sys2Proof
end

