-- ==== Sys2Proof/Machine/State.lean ====
section
/-! DEFINITION. The state of the block, as plain data (10_state.md). -/

namespace Sys2Proof.Machine

/-- The two error values an operation can return (60_exceptions.md R140). -/
inductive ErrorKind where
  /-- A byte sequence that is no valid frame (60_exceptions.md R141). -/
  | invalidFrame
  /-- A request for active mode without a listener (60_exceptions.md R142). -/
  | configurationError
  deriving DecidableEq, Repr

/-- A decoded message (10_state.md R26): the bound on the payload is part of the type, equality is structural. -/
structure Message where
  src : Byte
  dst : Byte
  payload : List Byte
  fits : payload.length ≤ Config.maxPayload
  deriving DecidableEq, Repr

/-- The push notification (30_encoding.md R73) and the listener it is addressed to (42_reader.md R124). -/
structure Notification where
  listener : Listener
  tag : Tag
  readerName : Name
  message : Message
  deriving DecidableEq, Repr

/-- What a synchronous operation of a reader returns (30_encoding.md R72). -/
inductive Reply where
  /-- DRAIN: a sequence of Messages. -/
  | drained (messages : List Message)
  /-- CONFIGURE: `Ok`. -/
  | ok
  /-- CONFIGURE: an error value. -/
  | error (e : ErrorKind)
  deriving DecidableEq, Repr

/-- What a pure operation returns (30_encoding.md R72). -/
inductive Answer where
  /-- CHECKSUM: a byte. -/
  | byte (b : Byte)
  /-- ENCODE and APPEND: a byte sequence. -/
  | bytes (bs : List Byte)
  /-- DECODE: a Message. -/
  | message (m : Message)
  /-- DECODE: an error value. -/
  | error (e : ErrorKind)
  /-- ISVALID: a Boolean. -/
  | bool (b : Bool)
  /-- EXTRACTALL: the messages and the remainder. -/
  | extraction (messages : List Message) (remainder : List Byte)
  deriving DecidableEq, Repr

/-- The operations a mailbox holds (10_state.md R29). -/
inductive Request where
  | ingest (bytes : List Byte)
  | drain
  | configure (o : Options)
  deriving DecidableEq, Repr

/-- The state of one reader: the five fields of 10_state.md R20 and the mailbox of R29. -/
structure Reader where
  /-- Bytes awaiting parse, oldest first (10_state.md R21). -/
  buffer : List Byte
  /-- Messages not yet delivered, oldest first (10_state.md R22). -/
  queue : List Message
  /-- The delivery variant (10_state.md R23). -/
  mode : Mode
  /-- The target of push notifications (10_state.md R24). -/
  listener : Option Listener
  /-- The tag of notifications (10_state.md R25). -/
  name : Name
  /-- Operations issued and not yet processed, oldest first (10_state.md R29). -/
  mailbox : List Request
  deriving DecidableEq, Repr

/-- One reader instance: its state while it exists (10_state.md R33) and what it has shown (10_state.md R30). -/
structure Slot where
  /-- `none` after STOP (70_reset_and_hazards.md R161). -/
  reader : Option Reader
  /-- The output trace, oldest first (10_state.md R30; log 24). -/
  trace : List Notification
  /-- The results of DRAIN and CONFIGURE, oldest first (10_state.md R30; log 24). -/
  replies : List Reply
  deriving DecidableEq, Repr

/-- What the block is in the middle of when its operations run pass by pass (41_framebuffer.md R101; log 20). -/
inductive Activity where
  /-- Between operations. -/
  | idle
  /-- In the extraction loop, with the buffer and the messages so far; for a reader's INGEST or a caller (`none`). -/
  | extracting (owner : Option ReaderId) (buffer : List Byte) (messages : List Message)
  /-- In the delivery phase of a reader's INGEST (42_reader.md R121). -/
  | delivering (r : ReaderId)
  deriving DecidableEq, Repr

/-- Which agent moves next. DESIGN CHOICE (log 19). -/
inductive Turn where
  /-- The next command of the port is issued: a reader's operation enters its mailbox. -/
  | issue
  /-- A reader processes the oldest operation of its mailbox. -/
  | work (r : ReaderId)
  deriving DecidableEq, Repr

/-- What one step takes: a whole operation or one pass (41_framebuffer.md R101; log 20). -/
inductive Grain where
  | whole
  | pass
  deriving DecidableEq, Repr

/-- The whole machine: the readers, the results of the pure operations, and the environment's plain data. -/
structure State where
  /-- The reader instances in the order of their STARTs (60_exceptions.md R153; log 2). -/
  slots : List Slot
  /-- The results of the pure operations, oldest first (30_encoding.md R72; log 24). -/
  answers : List Answer
  /-- The operation in progress when operations run pass by pass (log 20). -/
  activity : Activity
  /-- The command bytes issued and not yet taken, in issue order (log 1, log 27). -/
  port : List Byte
  /-- Which agent moves next; empty: every operation is processed when it is issued (10_state.md R29; log 19). -/
  turns : List Turn
  /-- Whole operations or passes (log 20). -/
  grain : Grain
  deriving DecidableEq, Repr

/-- The faults of a step: none, since no operation is fatal (60_exceptions.md R140; 42_reader.md R128). Nobody raises
one, so claims about faults are empty and safe. -/
inductive Fault
  deriving DecidableEq, Repr

/-- Why a step has no meaning (00_scope.md R10 outcome (c); 60_exceptions.md R154). All are safe: nothing can be
proved about a run through one. -/
inductive Refusal where
  /-- Raised by an arm of `exec` whose row has no meaning yet. Safe. -/
  | notModelled (mnemonic : String)
  /-- Raised by the UNASSIGNED rows: the select code selects nothing (60_exceptions.md R154). Safe. -/
  | unassignedCode (code : BitVec 4)
  /-- Raised by an operation on a reader that has not been STARTed (60_exceptions.md R154). Safe. -/
  | beforeStart
  /-- Raised by an operation on a reader that has been STOPped (60_exceptions.md R154). Safe. -/
  | afterStop
  /-- Raised by ENCODE of more than 253 payload bytes (60_exceptions.md R154, D5; log 10). Safe. -/
  | notAMessage
  /-- Raised by CONFIGURE with a field left out (60_exceptions.md R154, D14; log 15). Safe. -/
  | partialOptions
  /-- Raised by STOP while a DRAIN or CONFIGURE waits in the mailbox (70_reset_and_hazards.md R161, D13; log 14). Safe. -/
  | callerPending
  /-- Raised by an X_ row that the extraction in progress does not select (30_encoding.md R75; log 22). Safe. -/
  | stepNotSelected
  /-- Raised by an X_ row when no extraction is in progress (log 22). Safe. -/
  | noExtraction
  /-- Raised by step when the port's bytes are no command (log 30). Safe. -/
  | badCommand (why : Reject)
  deriving DecidableEq, Repr

/-- A reader right after a START that was given nothing (10_state.md R32; D6, log 3, log 4). -/
def Reader.reset : Reader where
  buffer := []
  queue := []
  mode := Config.initMode
  listener := Config.initListener
  name := Config.nameDefault
  mailbox := []

/-- The machine right after reset: START is the block's reset (70_reset_and_hazards.md R160), so one reader stands in
the state of 10_state.md R32 and nothing else has happened (log 2). -/
def State.reset : State where
  slots := [{ reader := some Reader.reset, trace := [], replies := [] }]
  answers := []
  activity := .idle
  port := []
  turns := []
  grain := .whole

end Sys2Proof.Machine
end

