-- ==== Sys2Proof/Machine/Ops.lean ====
section
/-! DEFINITION. The operations over the stores (20_memory.md R44), over the readers, and over the observation.
An error of this block is a value that is returned (60_exceptions.md R140): returning one is what taking an exception
is elsewhere, and there is nothing to return from (60_exceptions.md R149). -/

namespace Sys2Proof.Machine

/-- The outcome of an operation. -/
abbrev Result := Host.Outcome State Fault Refusal

/-- `BufAppend` (20_memory.md R44). -/
def bufAppend (buffer bytes : List Byte) : List Byte := buffer ++ bytes

/-- `BufTake`: the slice `[0 ..< n]`, not removed (20_memory.md R44). -/
def bufTake (buffer : List Byte) (n : Nat) : List Byte := slice buffer 0 n

/-- `BufDrop` (20_memory.md R44). -/
def bufDrop (buffer : List Byte) (n : Nat) : List Byte := buffer.drop n

/-- `BufPeek(1)`: the `len` field of the head (20_memory.md R44). -/
def bufPeekLen (buffer : List Byte) : Nat := frameLen buffer

/-- `QueueAppend` (20_memory.md R44). -/
def queueAppend (queue messages : List Message) : List Message := queue ++ messages

/-- `QueueTakeAll`: all Messages, and the queue it leaves (20_memory.md R44). -/
def queueTakeAll (queue : List Message) : List Message × List Message := (queue, [])

/-- `QueueClear` (20_memory.md R44). -/
def queueClear (_queue : List Message) : List Message := []

/-- The error codes an implementation may return, 0 being success (60_exceptions.md R143; D10, log 29). -/
def ErrorKind.code : ErrorKind → Nat
  | .invalidFrame => 1
  | .configurationError => 2

/-- The message text of the configuration error (60_exceptions.md R142). -/
def ErrorKind.text : ErrorKind → String
  | .invalidFrame => "invalid frame"
  | .configurationError => "cannot enable active mode without a listener"

/-- The status code of a reply (60_exceptions.md R143). -/
def Reply.code : Reply → Nat
  | .drained _ => 0
  | .ok => 0
  | .error e => e.code

/-- The reader at an address, if it exists now. -/
def State.reader? (s : State) (r : ReaderId) : Option Reader := (s.slots[r]?).bind Slot.reader

/-- Go on with the reader at an address; refused before its START and after its STOP (60_exceptions.md R154). -/
def onReader (r : ReaderId) (s : State) (k : Slot → Reader → Result) : Result :=
  match s.slots[r]? with
  | none => .refused .beforeStart
  | some slot =>
    match slot.reader with
    | none => .refused .afterStop
    | some reader => k slot reader

/-- Write one reader instance; no other instance changes (20_memory.md R53). -/
def State.putSlot (s : State) (r : ReaderId) (slot : Slot) : State := { s with slots := s.slots.set r slot }

/-- The instance with another reader state and nothing more shown. -/
def Slot.putReader (slot : Slot) (reader : Reader) : Slot := { slot with reader := some reader }

/-- Return a value to the caller of a reader's synchronous operation (20_memory.md R48). -/
def Slot.reply (slot : Slot) (x : Reply) : Slot := { slot with replies := slot.replies ++ [x] }

/-- `emit`: append notifications to the output trace (00_scope.md R9; 10_state.md R30). -/
def Slot.emit (slot : Slot) (ns : List Notification) : Slot := { slot with trace := slot.trace ++ ns }

/-- Return the value of a pure operation to its caller. -/
def State.answer (s : State) (a : Answer) : State := { s with answers := s.answers ++ [a] }

/-- A DRAIN or CONFIGURE, whose caller waits for its result (20_memory.md R48). -/
def Request.synchronous : Request → Bool
  | .ingest _ => false
  | .drain => true
  | .configure _ => true

/-- The notification of a Message (30_encoding.md R73). -/
def notification (l : Listener) (n : Name) (m : Message) : Notification where
  listener := l
  tag := Config.notifyTag
  readerName := n
  message := m

/-- Where the reader pushes, if it pushes: active mode and a listener set (60_exceptions.md R145). -/
def Reader.pushTarget (reader : Reader) : Option Listener :=
  match reader.mode with
  | .active => reader.listener
  | .passive => none

end Sys2Proof.Machine
end

