-- ==== Sys2Proof/Machine/Operands.lean ====
section
/-! DEFINITION. The operand forms: a message value, and the options of START and CONFIGURE. -/

namespace Sys2Proof.Machine

/-- The Message a value is, if it is one (10_state.md R26; D5). -/
def messageOperand (src dst : Byte) (payload : List Byte) : Option Message :=
  if h : payload.length ≤ Config.maxPayload then some ⟨src, dst, payload, h⟩ else none

/-- A complete options record: what CONFIGURE needs (30_encoding.md R74). -/
structure FullOptions where
  active : Bool
  listener : Option Listener
  name : Name
  deriving DecidableEq, Repr

/-- The complete record, if no field is left out (30_encoding.md R74; D14). -/
def fullOptions (o : Options) : Option FullOptions :=
  match o.active, o.listener, o.name with
  | some a, some l, some n => some ⟨a, l, n⟩
  | none, _, _ => none
  | _, none, _ => none
  | _, _, none => none

/-- The reader START makes of its arguments, defaults where it is given none (70_reset_and_hazards.md R160; 10_state.md
R32). Nothing is checked (D7, log 7). -/
def startedReader (o : Options) : Reader where
  buffer := []
  queue := []
  mode := (o.active.map Mode.ofActive).getD Config.initMode
  listener := o.listener.getD Config.initListener
  name := o.name.getD Config.nameDefault
  mailbox := []

end Sys2Proof.Machine
end

