-- ==== Sys2Proof/Machine/Lifecycle.lean ====
section
/-! DEFINITION. START and STOP (70_reset_and_hazards.md), and the select codes that select nothing. -/

namespace Sys2Proof.Machine

/-- START (70_reset_and_hazards.md R160): a new instance beside the others (D13, log 14). -/
def execStart (o : Options) (s : State) : Result :=
  .next { s with slots := s.slots ++ [{ reader := some (startedReader o), trace := [], replies := [] }] }

/-- STOP (70_reset_and_hazards.md R161): the instance ceases to exist with its buffer, queue and mailbox; what it has
shown stays shown. A run in which a synchronous caller is pending has no meaning (D13, log 14). -/
def execStop (r : ReaderId) (s : State) : Result :=
  onReader r s fun slot reader =>
    if reader.mailbox.any Request.synchronous then .refused .callerPending
    else .next (s.putSlot r { slot with reader := none })

/-- Select code 0101 (30_encoding.md R72; 60_exceptions.md R154). -/
def execUnassigned0101 (_s : State) : Result := .refused (.unassignedCode 0b0101#4)

/-- Select code 0110 (30_encoding.md R72; 60_exceptions.md R154). -/
def execUnassigned0110 (_s : State) : Result := .refused (.unassignedCode 0b0110#4)

/-- Select code 0111 (30_encoding.md R72; 60_exceptions.md R154). -/
def execUnassigned0111 (_s : State) : Result := .refused (.unassignedCode 0b0111#4)

/-- Select code 1110 (30_encoding.md R72; 60_exceptions.md R154). -/
def execUnassigned1110 (_s : State) : Result := .refused (.unassignedCode 0b1110#4)

/-- Select code 1111 (30_encoding.md R72; 60_exceptions.md R154). -/
def execUnassigned1111 (_s : State) : Result := .refused (.unassignedCode 0b1111#4)

end Sys2Proof.Machine
end

