-- ==== Sys2Proof/Machine/Codec.lean ====
section
/-! DEFINITION. MessageCodec: CHECKSUM, ENCODE, DECODE, ISVALID (40_codec.md), and the FRAME row. All are pure: they
read and write no reader state (10_state.md R31). -/

namespace Sys2Proof.Machine

/-- The covered part of a Message's frame: `src`, `len`, `dst`, payload (40_codec.md R81). -/
def messageBody (m : Message) : List Byte := m.src :: lenByte m.payload.length :: m.dst :: m.payload

/-- `encode` (40_codec.md R81; 30_encoding.md R67). -/
def encodeMessage (m : Message) : List Byte := messageBody m ++ [xorFold (messageBody m)]

/-- The payload of a sequence of the declared length is a Message's (30_encoding.md R62). -/
theorem framePayload_fits {f : List Byte} (h : f.length = declaredLength f) :
    (framePayload f).length ≤ Config.maxPayload := by
  have hl : frameLen f < 256 := (byteAt f 1).isLt
  simp only [declaredLength] at h
  simp only [framePayload, slice, Config.maxPayload, List.length_drop, List.length_take]
  omega

/-- `decode` (40_codec.md R82): V1, V2, V3, V4 in this order. -/
def decodeFrame (f : List Byte) : Except ErrorKind Message :=
  if f.length < 2 then .error .invalidFrame
  else if h : f.length = declaredLength f then
    if xorFold (frameBody f) ≠ frameChecksum f then .error .invalidFrame
    else if frameLen f < 2 then .error .invalidFrame
    else .ok ⟨byteAt f 0, byteAt f 2, framePayload f, framePayload_fits h⟩
  else .error .invalidFrame

/-- `isValid`: `decode` succeeded (40_codec.md R83). -/
def isValidFrame (f : List Byte) : Bool :=
  match decodeFrame f with
  | .ok _ => true
  | .error _ => false

/-- A result of `decode` as the value returned to the caller (60_exceptions.md R141). -/
def decodeAnswer (x : Except ErrorKind Message) : Answer :=
  match x with
  | .ok m => .message m
  | .error e => .error e

/-- CHECKSUM (40_codec.md R80). -/
def execChecksum (bytes : List Byte) (s : State) : Result := .next (s.answer (.byte (xorFold bytes)))

/-- ENCODE (40_codec.md R81); a value that is no Message is refused (60_exceptions.md R154). -/
def execEncode (src dst : Byte) (payload : List Byte) (s : State) : Result :=
  match messageOperand src dst payload with
  | some m => .next (s.answer (.bytes (encodeMessage m)))
  | none => .refused .notAMessage

/-- DECODE (40_codec.md R82). -/
def execDecode (frame : List Byte) (s : State) : Result := .next (s.answer (decodeAnswer (decodeFrame frame)))

/-- ISVALID (40_codec.md R83). -/
def execIsvalid (frame : List Byte) (s : State) : Result := .next (s.answer (.bool (isValidFrame frame)))

/-- FRAME (30_encoding.md R60, R68, R69): the block's judgment of five fields laid out on the wire. DESIGN CHOICE: the
row is a format and no operation; a valid frame yields its Message, any other fields yield `InvalidFrame` (log 21). -/
def execFrame (src len dst : Byte) (payload : List Byte) (checksum : Byte) (s : State) : Result :=
  .next (s.answer (decodeAnswer (decodeFrame (frameBytes src len dst payload checksum))))

end Sys2Proof.Machine
end

