-- ==== Sys2Proof/Machine/FrameBuffer.lean ====
section
/-! DEFINITION. FrameBuffer: APPEND, EXTRACTALL and its four passes (41_framebuffer.md). -/

namespace Sys2Proof.Machine

/-- The pass a buffer selects, with what it does (30_encoding.md R75; 41_framebuffer.md R102 to R105). -/
inductive Pass where
  | short
  | wait
  | emit (m : Message) (rest : List Byte)
  | drop (rest : List Byte)
  deriving DecidableEq, Repr

/-- The candidate: `b[0 ..< len+2]` (41_framebuffer.md R101 step 3). -/
def candidate (b : List Byte) : List Byte := bufTake b (declaredLength b)

/-- The selection of a pass, in the order short, wait, decode (30_encoding.md R75; 60_exceptions.md R146). -/
def passOf (b : List Byte) : Pass :=
  if tooShort b then .short
  else if incomplete b then .wait
  else
    match decodeFrame (candidate b) with
    | .ok m => .emit m (bufDrop b (declaredLength b))
    | .error _ => .drop (bufDrop b Config.resyncSkip)

/-- The loop of `extractAll` with at most so many passes (41_framebuffer.md R101, R106). -/
def extractLoop : Nat → List Byte → List Message × List Byte
  | 0, b => ([], b)
  | n + 1, b =>
    match passOf b with
    | .short => ([], b)
    | .wait => ([], b)
    | .emit m rest => (m :: (extractLoop n rest).1, (extractLoop n rest).2)
    | .drop rest => extractLoop n rest

/-- `extractAll` (41_framebuffer.md R101): at most `|b|` passes are made (41_framebuffer.md R106). -/
def extractAll (b : List Byte) : List Message × List Byte := extractLoop b.length b

/-- APPEND (41_framebuffer.md R100). -/
def execAppend (buffer bytes : List Byte) (s : State) : Result :=
  .next (s.answer (.bytes (bufAppend buffer bytes)))

/-- EXTRACTALL (41_framebuffer.md R101). -/
def execExtractall (buffer : List Byte) (s : State) : Result :=
  .next (s.answer (.extraction (extractAll buffer).1 (extractAll buffer).2))

/-- Enter the extraction loop on a buffer (41_framebuffer.md R101; log 20). -/
def State.beginExtraction (s : State) (owner : Option ReaderId) (buffer : List Byte) : State :=
  { s with activity := .extracting owner buffer [] }

/-- The loop stops: a caller gets its result, a reader's remainder and messages are stored and its delivery follows
(41_framebuffer.md R101; 42_reader.md R120). -/
def stopExtraction (owner : Option ReaderId) (b : List Byte) (ms : List Message) (s : State) : Result :=
  match owner with
  | none => .next ({ s with activity := .idle }.answer (.extraction ms b))
  | some r =>
    onReader r s fun slot reader =>
      .next ({ s with activity := .delivering r }.putSlot r
        (slot.putReader { reader with buffer := b, queue := queueAppend reader.queue ms }))

/-- Go on with the extraction in progress (log 22). -/
def withExtraction (s : State) (k : Option ReaderId → List Byte → List Message → Result) : Result :=
  match s.activity with
  | .idle => .refused .noExtraction
  | .extracting owner b ms => k owner b ms
  | .delivering _ => .refused .noExtraction

/-- X_SHORT (41_framebuffer.md R102). -/
def execXShort (s : State) : Result :=
  withExtraction s fun owner b ms =>
    match passOf b with
    | .short => stopExtraction owner b ms s
    | .wait => .refused .stepNotSelected
    | .emit _ _ => .refused .stepNotSelected
    | .drop _ => .refused .stepNotSelected

/-- X_WAIT (41_framebuffer.md R103). -/
def execXWait (s : State) : Result :=
  withExtraction s fun owner b ms =>
    match passOf b with
    | .short => .refused .stepNotSelected
    | .wait => stopExtraction owner b ms s
    | .emit _ _ => .refused .stepNotSelected
    | .drop _ => .refused .stepNotSelected

/-- X_EMIT (41_framebuffer.md R104). -/
def execXEmit (s : State) : Result :=
  withExtraction s fun owner b ms =>
    match passOf b with
    | .short => .refused .stepNotSelected
    | .wait => .refused .stepNotSelected
    | .emit m rest => .next { s with activity := .extracting owner rest (ms ++ [m]) }
    | .drop _ => .refused .stepNotSelected

/-- X_DROP (41_framebuffer.md R105; the handling of `InvalidFrame`, 60_exceptions.md R147). -/
def execXDrop (s : State) : Result :=
  withExtraction s fun owner b ms =>
    match passOf b with
    | .short => .refused .stepNotSelected
    | .wait => .refused .stepNotSelected
    | .emit _ _ => .refused .stepNotSelected
    | .drop rest => .next { s with activity := .extracting owner rest ms }

end Sys2Proof.Machine
end

