-- ==== Sys2Proof/Machine/ReaderOps.lean ====
section
/-! DEFINITION. The Reader: INGEST, DELIVER, DRAIN, CONFIGURE and the push notification (42_reader.md). -/

namespace Sys2Proof.Machine

/-- Append and extract: the remainder is the buffer, the messages join the queue in order (42_reader.md R120). -/
def Reader.absorb (reader : Reader) (bytes : List Byte) : Reader :=
  { reader with
    buffer := (extractAll (bufAppend reader.buffer bytes)).2
    queue := queueAppend reader.queue (extractAll (bufAppend reader.buffer bytes)).1 }

/-- The delivery phase: in active mode with a listener every queued Message is pushed in queue order and the queue is
cleared; otherwise nothing (42_reader.md R121). -/
def Slot.deliver (slot : Slot) (reader : Reader) : Slot :=
  match reader.pushTarget with
  | some l =>
    (slot.putReader { reader with queue := queueClear reader.queue }).emit
      (reader.queue.map (notification l reader.name))
  | none => slot.putReader reader

/-- INGEST (42_reader.md R120): append, extract, queue, deliver, as one step (20_memory.md R46). -/
def execIngest (r : ReaderId) (bytes : List Byte) (s : State) : Result :=
  onReader r s fun slot reader => .next (s.putSlot r (slot.deliver (reader.absorb bytes)))

/-- INGEST entered pass by pass: the loop begins on the appended buffer (42_reader.md R120; log 20). -/
def beginIngest (r : ReaderId) (bytes : List Byte) (s : State) : Result :=
  onReader r s fun _ reader => .next (s.beginExtraction (some r) (bufAppend reader.buffer bytes))

/-- The delivery phase of this reader is over. -/
def Activity.afterDelivery (a : Activity) (r : ReaderId) : Activity :=
  match a with
  | .idle => .idle
  | .extracting owner b ms => .extracting owner b ms
  | .delivering r' => if r' = r then .idle else .delivering r'

/-- DELIVER (42_reader.md R121); no caller can select it (log 23). -/
def execDeliver (r : ReaderId) (s : State) : Result :=
  onReader r s fun slot reader =>
    .next ({ s with activity := s.activity.afterDelivery r }.putSlot r (slot.deliver reader))

/-- NOTIFY (42_reader.md R124): the oldest queued Message is pushed and the block keeps no copy of it; in passive mode,
without a listener, or with nothing queued, nothing is emitted (60_exceptions.md R145; log 23). -/
def execNotify (r : ReaderId) (s : State) : Result :=
  onReader r s fun slot reader =>
    match reader.pushTarget, reader.queue with
    | some l, m :: queue =>
      .next (s.putSlot r ((slot.putReader { reader with queue := queue }).emit [notification l reader.name m]))
    | some _, [] => .next s
    | none, _ => .next s

/-- DRAIN (42_reader.md R122): in active mode the queue is left as it is (D15, log 11). -/
def execDrain (r : ReaderId) (s : State) : Result :=
  onReader r s fun slot reader =>
    match reader.mode with
    | .passive =>
      .next (s.putSlot r ((slot.putReader { reader with queue := (queueTakeAll reader.queue).2 }).reply
        (.drained (queueTakeAll reader.queue).1)))
    | .active => .next (s.putSlot r (slot.reply (.drained [])))

/-- The request is for active mode without a listener (42_reader.md R123). -/
def FullOptions.unpushable (o : FullOptions) : Bool := o.active && o.listener.isNone

/-- What CONFIGURE makes of the instance: on the error only the name is applied (42_reader.md R123). -/
def Slot.configure (slot : Slot) (reader : Reader) (o : FullOptions) : Slot :=
  if o.unpushable then (slot.putReader { reader with name := o.name }).reply (.error .configurationError)
  else
    (slot.putReader { reader with mode := Mode.ofActive o.active, listener := o.listener, name := o.name }).reply .ok

/-- CONFIGURE (42_reader.md R123); no delivery runs (42_reader.md R125; D16, log 12). A record that lacks a field is
refused (60_exceptions.md R154). -/
def execConfigure (r : ReaderId) (o : Options) (s : State) : Result :=
  onReader r s fun slot reader =>
    match fullOptions o with
    | some full => .next (s.putSlot r (slot.configure reader full))
    | none => .refused .partialOptions

end Sys2Proof.Machine
end

