-- ==== Sys2Proof/Machine/Dispatch.lean ====
section
/-! DEFINITION. One arm per row of spec/opcode_table.json. -/

namespace Sys2Proof.Machine

/-- The meaning of an operation. -/
def exec (i : Instr) (s : State) : Host.Outcome State Fault Refusal :=
  match i with
  | .start o => Sys2Proof.Machine.execStart o s
  | .stop r => Sys2Proof.Machine.execStop r s
  | .ingest r bytes => Sys2Proof.Machine.execIngest r bytes s
  | .drain r => Sys2Proof.Machine.execDrain r s
  | .configure r o => Sys2Proof.Machine.execConfigure r o s
  | .checksum bytes => Sys2Proof.Machine.execChecksum bytes s
  | .encode src dst payload => Sys2Proof.Machine.execEncode src dst payload s
  | .decode f => Sys2Proof.Machine.execDecode f s
  | .isvalid f => Sys2Proof.Machine.execIsvalid f s
  | .append b bytes => Sys2Proof.Machine.execAppend b bytes s
  | .extractall b => Sys2Proof.Machine.execExtractall b s
  | .unassigned0101 => Sys2Proof.Machine.execUnassigned0101 s
  | .unassigned0110 => Sys2Proof.Machine.execUnassigned0110 s
  | .unassigned0111 => Sys2Proof.Machine.execUnassigned0111 s
  | .unassigned1110 => Sys2Proof.Machine.execUnassigned1110 s
  | .unassigned1111 => Sys2Proof.Machine.execUnassigned1111 s
  | .xShort => Sys2Proof.Machine.execXShort s
  | .xWait => Sys2Proof.Machine.execXWait s
  | .xEmit => Sys2Proof.Machine.execXEmit s
  | .xDrop => Sys2Proof.Machine.execXDrop s
  | .frame src len dst payload c => Sys2Proof.Machine.execFrame src len dst payload c s
  | .deliver r => Sys2Proof.Machine.execDeliver r s
  | .notify r => Sys2Proof.Machine.execNotify r s

end Sys2Proof.Machine
end

