-- ==== Sys2Proof/Machine/Schedule.lean ====
section
/-! DEFINITION. What the next step runs: the pass an operation in progress selects, the oldest operation of a mailbox,
or the next command of the port (20_memory.md R46, R47; 10_state.md R29; log 18, 19, 20, 27). -/

namespace Sys2Proof.Machine

/-- The row a pass is (30_encoding.md R75). -/
def passInstr (b : List Byte) : Instr :=
  match passOf b with
  | .short => .xShort
  | .wait => .xWait
  | .emit _ _ => .xEmit
  | .drop _ => .xDrop

/-- The delivery phase has a notification to emit (42_reader.md R124). -/
def State.hasToNotify (s : State) (r : ReaderId) : Bool :=
  match s.reader? r with
  | some reader => reader.pushTarget.isSome && !reader.queue.isEmpty
  | none => false

/-- The internal step the operation in progress takes next; none between operations. -/
def State.internalInstr (s : State) : Option Instr :=
  match s.activity with
  | .idle => none
  | .extracting _ b _ => some (passInstr b)
  | .delivering r => some (if s.hasToNotify r then .notify r else .deliver r)

/-- The operation a request to a reader is. -/
def Request.toInstr (q : Request) (r : ReaderId) : Instr :=
  match q with
  | .ingest bytes => .ingest r bytes
  | .drain => .drain r
  | .configure o => .configure r o

/-- The mailbox an operation enters when it is issued: INGEST, DRAIN and CONFIGURE enter one (10_state.md R29). -/
def requestOf : Instr → Option (ReaderId × Request)
  | .ingest r bytes => some (r, .ingest bytes)
  | .drain r => some (r, .drain)
  | .configure r o => some (r, .configure o)
  | .start _ => none
  | .stop _ => none
  | .checksum _ => none
  | .encode _ _ _ => none
  | .decode _ => none
  | .isvalid _ => none
  | .append _ _ => none
  | .extractall _ => none
  | .unassigned0101 => none
  | .unassigned0110 => none
  | .unassigned0111 => none
  | .unassigned1110 => none
  | .unassigned1111 => none
  | .xShort => none
  | .xWait => none
  | .xEmit => none
  | .xDrop => none
  | .frame _ _ _ _ _ => none
  | .deliver _ => none
  | .notify _ => none

/-- Process an operation: whole, or by entering its extraction loop (41_framebuffer.md R101 "Granularity"; log 20). -/
def perform (i : Instr) (s : State) : Result :=
  match s.grain, i with
  | .pass, .ingest r bytes => beginIngest r bytes s
  | .pass, .extractall b => .next (s.beginExtraction none b)
  | _, i => exec i s

/-- A reader processes the oldest operation of its mailbox; with none it stays as it is (60_exceptions.md R156). -/
def processHead (r : ReaderId) (s : State) : Result :=
  match s.slots[r]? with
  | none => .next s
  | some slot =>
    match slot.reader with
    | none => .next s
    | some reader =>
      match reader.mailbox with
      | [] => .next s
      | q :: qs => perform (q.toInstr r) (s.putSlot r (slot.putReader { reader with mailbox := qs }))

/-- A reader's operation enters its mailbox, behind those issued before it (10_state.md R29). -/
def post (r : ReaderId) (q : Request) (s : State) : Result :=
  onReader r s fun slot reader =>
    .next (s.putSlot r (slot.putReader { reader with mailbox := reader.mailbox ++ [q] }))

/-- Take the next command of the port and hand it on; with none the machine stays as it is (60_exceptions.md R156). -/
def takeCommand (s : State) (k : Instr → State → Result) : Result :=
  match s.port with
  | [] => .next s
  | c :: bytes =>
    match decode (c :: bytes) with
    | .error why => .refused (.badCommand why)
    | .ok (i, rest) => k i { s with port := rest }

/-- Issue an operation: into its mailbox if it enters one, else it takes effect at once. -/
def issue (i : Instr) (s : State) : Result :=
  match requestOf i with
  | some (r, q) => post r q s
  | none => perform i s

/-- The instance has operations waiting. -/
def Slot.pending (slot : Slot) : Bool :=
  match slot.reader with
  | some reader => !reader.mailbox.isEmpty
  | none => false

/-- The first reader with operations waiting. -/
def State.pendingReader? (s : State) : Option ReaderId := s.slots.findIdx? Slot.pending

/-- The move between operations: as the turns say; with no turn set, waiting operations first, then the port. -/
def moveOn (s : State) : Result :=
  match s.turns with
  | .issue :: ts => takeCommand { s with turns := ts } issue
  | .work r :: ts => processHead r { s with turns := ts }
  | [] =>
    match s.pendingReader? with
    | some r => processHead r s
    | none => takeCommand s perform

/-- The instance with an empty mailbox. -/
def Slot.clearMailbox (slot : Slot) : Slot :=
  { slot with reader := slot.reader.map fun reader => { reader with mailbox := [] } }

end Sys2Proof.Machine
end

