-- ==== Sys2Proof/Machine/Step.lean ====
section
/-! DEFINITION. One step of the machine. -/

namespace Sys2Proof.Machine

/-- One step: the internal step of the operation in progress, or the next operation (00_scope.md R6; 20_memory.md R46). -/
def step (s : State) : Host.Outcome State Fault Refusal :=
  match s.internalInstr with
  | some i => exec i s
  | none => moveOn s

/-- The state whose very next step runs the command that begins with these bits, operand bytes zero: it is the one
command of the port, and nothing is in progress, waiting or scheduled before it (log 27). -/
def State.withFetchWord (s : State) (nbits w : Nat) : State :=
  { s with
    port := commandBytes nbits w
    activity := .idle
    turns := []
    grain := .whole
    slots := s.slots.map Slot.clearMailbox }

end Sys2Proof.Machine
end

