-- ==== Sys2Proof/Safety.lean ====
section
/-! DEFINITION. What is claimed of every state and every run (10_state.md R34; 41_framebuffer.md R108, R109). -/

namespace Sys2Proof.Machine

/-- The instance at an address and its reader, which exists: STARTed and not STOPped (60_exceptions.md R154). -/
abbrev State.Live (s : State) (r : ReaderId) (slot : Slot) (reader : Reader) : Prop :=
  s.slots[r]? = some slot ∧ slot.reader = some reader

/-- The buffer of an instance, if it exists, meets the stop condition of the extractor (10_state.md R34 item 2). -/
def Slot.settled (slot : Slot) : Bool :=
  match slot.reader with
  | some reader => Machine.settled reader.buffer
  | none => true

/-- Every reader's buffer meets the stop condition of the extractor (10_state.md R34 item 2). -/
def State.buffersSettled (s : State) : Bool := s.slots.all Slot.settled

/-- The reader whose operation is in progress exists (20_memory.md R46: nothing else runs before it ends). -/
def State.activityOwned (s : State) : Bool :=
  match s.activity with
  | .idle => true
  | .extracting none _ _ => true
  | .extracting (some r) _ _ => (s.reader? r).isSome
  | .delivering r => (s.reader? r).isSome

/-- No reader has operations waiting in its mailbox (10_state.md R29). -/
abbrev State.NothingWaits (s : State) : Prop :=
  ∀ slot ∈ s.slots, ∀ reader, slot.reader = some reader → reader.mailbox = []

/-- The operations with an extraction loop, which runs in passes at the pass grain (41_framebuffer.md R101; log 20). -/
abbrev HasPasses (i : Instr) : Prop := (∃ r bytes, i = .ingest r bytes) ∨ ∃ b, i = .extractall b

/-- The operations that enter a mailbox when they are issued (10_state.md R29). -/
abbrev EntersMailbox (i : Instr) : Prop :=
  (∃ r bytes, i = .ingest r bytes) ∨ (∃ r, i = .drain r) ∨ ∃ r o, i = .configure r o

/-- `g0 ++ encode(m1) ++ g1 ++ … ++ encode(mk) ++ gk`: discarded runs and emitted frames in stream order
(41_framebuffer.md R109); each message comes with the run in front of it. -/
def interleave (lastRun : List Byte) : List (List Byte × Message) → List Byte
  | [] => lastRun
  | (run, m) :: more => run ++ encodeMessage m ++ interleave lastRun more

end Sys2Proof.Machine
end

