-- ==== Sys2Proof/Certificates/Slice0/Obligations.lean ====
section
/-! DEFINITION. The statements for the provers. The block has no addressed memory, no registers and no flags (20_memory.md
R40; 10_state.md R27, R28): a frame here is the equation for the whole next state, so every field and every reader that
the equation does not name is unchanged. -/

open Sys2Proof Sys2Proof.Machine

/-! ### Reset, START, STOP -/

/-- What reset leaves (10_state.md R32). That the mode is passive and the listener absent is the spec's own choice D6
(log 3); that reset is one START with no arguments is the model's (log 2). -/
def Obligations.ResetLeavesOneStartedReader : Prop :=
  ∃ reader, State.reset.slots = [⟨some reader, [], []⟩] ∧ reader.buffer = [] ∧ reader.queue = [] ∧
    reader.mailbox = [] ∧ reader.mode = .passive ∧ reader.listener = none ∧ reader.name = Config.nameDefault

/-- START (70_reset_and_hazards.md R160) creates a new reader beside the others; its buffer, queue and mailbox are
empty, its mode, listener and name are those given or the defaults. The defaults and the absence of a check are the
spec's own choices D6, D7, D13 (log 3, 7, 14). -/
def Obligations.StartCreatesAReaderAsConfigured : Prop :=
  ∀ (o : Options) (s : State), ∃ reader : Reader,
    exec (.start o) s = .next { s with slots := s.slots ++ [⟨some reader, [], []⟩] } ∧
    reader.buffer = [] ∧ reader.queue = [] ∧ reader.mailbox = [] ∧
    reader.mode = (match o.active with | some true => .active | some false => .passive | none => .passive) ∧
    reader.listener = (match o.listener with | some l => l | none => none) ∧
    reader.name = (match o.name with | some n => n | none => Config.nameDefault)

/-- STOP (70_reset_and_hazards.md R161) with no synchronous caller waiting ends the instance: its state is gone, what it
has shown stays, nothing else changes, and every later operation on it is refused (60_exceptions.md R154). The refusal
after STOP is the spec's own choice D13 (log 14). -/
def Obligations.StopEndsTheReaderForGood : Prop :=
  ∀ (r : ReaderId) (s : State) (slot : Slot) (reader : Reader), s.Live r slot reader →
    (∀ q ∈ reader.mailbox, ∃ bytes, q = .ingest bytes) →
    ∃ t, exec (.stop r) s = .next t ∧ t = { s with slots := s.slots.set r ⟨none, slot.trace, slot.replies⟩ } ∧
      (∀ bytes, exec (.ingest r bytes) t = .refused .afterStop) ∧ exec (.drain r) t = .refused .afterStop ∧
      (∀ o, exec (.configure r o) t = .refused .afterStop) ∧ exec (.stop r) t = .refused .afterStop ∧
      exec (.deliver r) t = .refused .afterStop ∧ exec (.notify r) t = .refused .afterStop

/-- STOP while a DRAIN or a CONFIGURE waits in the mailbox has no meaning (70_reset_and_hazards.md R161; the spec's own
choice D13, log 14). -/
def Obligations.StopWithAWaitingCallerIsRefused : Prop :=
  ∀ (r : ReaderId) (s : State) (slot : Slot) (reader : Reader) (q : Request), s.Live r slot reader →
    q ∈ reader.mailbox → (q = .drain ∨ ∃ o, q = .configure o) → exec (.stop r) s = .refused .callerPending

/-- An operation on a reader before its START is refused (60_exceptions.md R154; the spec's own choice D13, log 14). -/
def Obligations.OperationsBeforeStartAreRefused : Prop :=
  ∀ (r : ReaderId) (s : State), s.slots.length ≤ r →
    (∀ bytes, exec (.ingest r bytes) s = .refused .beforeStart) ∧ exec (.drain r) s = .refused .beforeStart ∧
    (∀ o, exec (.configure r o) s = .refused .beforeStart) ∧ exec (.stop r) s = .refused .beforeStart ∧
    exec (.deliver r) s = .refused .beforeStart ∧ exec (.notify r) s = .refused .beforeStart

/-- A stopped instance stays stopped under every operation, and shows nothing more (10_state.md R33). That START never
revives it is the spec's own choice D13 (log 14). -/
def Obligations.NothingRevivesAStoppedReader : Prop :=
  ∀ (i : Instr) (s t : State) (r : ReaderId) (slot : Slot), exec i s = .next t → s.slots[r]? = some slot →
    slot.reader = none → t.slots[r]? = some slot

/-! ### The codec -/

/-- CHECKSUM (40_codec.md R80) answers the byte whose every bit is set exactly when that bit is set in an odd number of
the bytes; 0 for none; and changes nothing else. That exclusive-or sets a bit exactly when the two bits differ, and that
a byte has eight, the spec marks as general knowledge (00_scope.md R7, R8; G1, G2; log 26). -/
def Obligations.ChecksumIsTheExclusiveOrOfAllBytes : Prop :=
  ∀ (bytes : List Byte) (s : State), ∃ c : Byte,
    exec (.checksum bytes) s = .next { s with answers := s.answers ++ [.byte c] } ∧
    ∀ k, c.getLsbD k = decide ((bytes.filter fun b => b.getLsbD k).length % 2 = 1)

/-- The fold splits over concatenation and ignores the order of the bytes (40_codec.md R86 (a)). -/
def Obligations.XorFoldSplitsAndIgnoresOrder : Prop :=
  (∀ s t : List Byte, xorFold (s ++ t) = xorFold s ^^^ xorFold t) ∧
  (∀ s t : List Byte, s.Perm t → xorFold s = xorFold t) ∧
  (∀ (g : List Byte) (c : Byte), c = xorFold g ↔ xorFold (g ++ [c]) = 0#8)

/-- ENCODE (40_codec.md R81; 30_encoding.md R67): the frame of a Message, byte by byte. -/
def Obligations.EncodeLaysTheMessageOut : Prop :=
  ∀ (src dst : Byte) (payload : List Byte) (s : State), payload.length ≤ 253 →
    ∃ f : List Byte, exec (.encode src dst payload) s = .next { s with answers := s.answers ++ [.bytes f] } ∧
      f.length = payload.length + 4 ∧ f[0]? = some src ∧ (f[1]?).map BitVec.toNat = some (payload.length + 2) ∧
      f[2]? = some dst ∧ (∀ i, i < payload.length → f[3 + i]? = payload[i]?) ∧
      f[payload.length + 3]? = some (xorFold (f.take (payload.length + 3)))

/-- ENCODE of a value with more than 253 payload bytes is refused (60_exceptions.md R154; the spec's own choice D5,
log 10). -/
def Obligations.EncodeOfNoMessageIsRefused : Prop :=
  ∀ (src dst : Byte) (payload : List Byte) (s : State), 253 < payload.length →
    exec (.encode src dst payload) s = .refused .notAMessage

/-- DECODE (40_codec.md R82; 30_encoding.md R68) answers the Message when V1 to V4 hold, and `InvalidFrame` when any of
them fails. V1 and V4 are the spec's own choices D4 and D3 (log 9). -/
def Obligations.DecodeJudgesTheFourConditions : Prop :=
  ∀ (f : List Byte) (s : State),
    (2 ≤ f.length → f.length = (f.getD 1 0#8).toNat + 2 → xorFold (f.take (f.length - 1)) = f.getD (f.length - 1) 0#8 →
      2 ≤ (f.getD 1 0#8).toNat →
      ∃ m : Message, exec (.decode f) s = .next { s with answers := s.answers ++ [.message m] } ∧
        m.src = f.getD 0 0#8 ∧ m.dst = f.getD 2 0#8 ∧ m.payload = (f.take (f.length - 1)).drop 3) ∧
    (¬ (2 ≤ f.length ∧ f.length = (f.getD 1 0#8).toNat + 2 ∧
        xorFold (f.take (f.length - 1)) = f.getD (f.length - 1) 0#8 ∧ 2 ≤ (f.getD 1 0#8).toNat) →
      exec (.decode f) s = .next { s with answers := s.answers ++ [.error .invalidFrame] })

/-- ISVALID (40_codec.md R83): whether DECODE of the same bytes answers a Message. -/
def Obligations.IsValidTellsWhetherDecodeSucceeds : Prop :=
  ∀ (f : List Byte) (s : State), ∃ b : Bool,
    exec (.isvalid f) s = .next { s with answers := s.answers ++ [.bool b] } ∧
    (b = true ↔ ∃ m, exec (.decode f) s = .next { s with answers := s.answers ++ [.message m] })

/-- The round trip, Message first (40_codec.md R84). -/
def Obligations.DecodeOfEncodeIsTheMessage : Prop :=
  ∀ m : Message, decodeFrame (encodeMessage m) = .ok m

/-- The round trip, frame first (40_codec.md R85). -/
def Obligations.EncodeOfDecodeIsTheFrame : Prop :=
  ∀ (f : List Byte) (m : Message), decodeFrame f = .ok m → encodeMessage m = f

/-- A valid frame with any one byte changed is no valid frame (40_codec.md R87). -/
def Obligations.OneChangedByteIsAlwaysDetected : Prop :=
  ∀ (f : List Byte) (k : Nat) (b : Byte) (s : State), isValidFrame f = true → k < f.length → b ≠ f.getD k 0#8 →
    exec (.isvalid (f.set k b)) s = .next { s with answers := s.answers ++ [.bool false] }

/-- FRAME (30_encoding.md R60, R68, R69): five fields are judged as the frame they lay out; a well-formed FRAME yields
the Message of its fields, any other yields `InvalidFrame`. That the row is run as this judgment is the model's choice
(log 21). -/
def Obligations.FrameYieldsItsMessageOrInvalidFrame : Prop :=
  ∀ (src len dst : Byte) (payload : List Byte) (c : Byte) (s : State),
    (len.toNat = payload.length + 2 → c = xorFold ([src, len, dst] ++ payload) →
      ∃ m : Message, m.src = src ∧ m.dst = dst ∧ m.payload = payload ∧
        exec (.frame src len dst payload c) s = .next { s with answers := s.answers ++ [.message m] }) ∧
    (len.toNat ≠ payload.length + 2 ∨ c ≠ xorFold ([src, len, dst] ++ payload) →
      exec (.frame src len dst payload c) s = .next { s with answers := s.answers ++ [.error .invalidFrame] })

/-- Every pure operation completes in every state, changes nothing but the list of answers, and its answer depends on
its operands alone (10_state.md R31; 40_codec.md R88). ENCODE of no Message has no meaning and is left out. -/
def Obligations.PureOperationsOnlyAnswer : Prop :=
  ∀ i : Instr, i.wellFormed = true →
    (∃ bytes, i = .checksum bytes ∨ i = .decode bytes ∨ i = .isvalid bytes ∨ i = .extractall bytes) ∨
      (∃ src dst p, i = .encode src dst p) ∨ (∃ b x, i = .append b x) →
    ∃ a : Answer, ∀ s : State, exec i s = .next { s with answers := s.answers ++ [a] }

/-! ### The extractor -/

/-- APPEND (41_framebuffer.md R100). -/
def Obligations.AppendConcatenates : Prop :=
  ∀ (b x : List Byte) (s : State), exec (.append b x) s = .next { s with answers := s.answers ++ [.bytes (b ++ x)] }

/-- EXTRACTALL (41_framebuffer.md R101): it answers the messages and the remainder that the four-step loop gives. -/
def Obligations.ExtractAllIsTheFourStepLoop : Prop :=
  (∀ (b : List Byte) (s : State), exec (.extractall b) s =
    .next { s with answers := s.answers ++ [.extraction (extractAll b).1 (extractAll b).2] }) ∧
  ∀ b : List Byte,
    (b.length < 5 → extractAll b = ([], b)) ∧
    (5 ≤ b.length → b.length - 2 < (b.getD 1 0#8).toNat → extractAll b = ([], b)) ∧
    (5 ≤ b.length → (b.getD 1 0#8).toNat ≤ b.length - 2 →
      ∀ m, decodeFrame (b.take ((b.getD 1 0#8).toNat + 2)) = .ok m →
        extractAll b = (m :: (extractAll (b.drop ((b.getD 1 0#8).toNat + 2))).1,
          (extractAll (b.drop ((b.getD 1 0#8).toNat + 2))).2)) ∧
    (5 ≤ b.length → (b.getD 1 0#8).toNat ≤ b.length - 2 →
      decodeFrame (b.take ((b.getD 1 0#8).toNat + 2)) = .error .invalidFrame →
        extractAll b = extractAll (b.drop 1))

/-- X_SHORT (41_framebuffer.md R102): below five bytes the loop stops, the remainder is the whole buffer; a caller gets
the result, a reader's buffer and queue receive it and its delivery is next. Where the loop's result goes is the
model's choice (log 20, 22). -/
def Obligations.ShortPassStopsTheLoop : Prop :=
  ∀ (b : List Byte) (ms : List Message) (s : State), b.length < 5 →
    (s.activity = .extracting none b ms →
      exec .xShort s = .next { s with activity := .idle, answers := s.answers ++ [.extraction ms b] }) ∧
    (∀ (r : ReaderId) (slot : Slot) (reader : Reader), s.Live r slot reader → s.activity = .extracting (some r) b ms →
      exec .xShort s = .next { s with
        activity := .delivering r
        slots := s.slots.set r
          { slot with reader := some { reader with buffer := b, queue := reader.queue ++ ms } } })

/-- X_WAIT (41_framebuffer.md R103): a declared length beyond the bytes present stops the loop in the same way (log 20,
22). -/
def Obligations.WaitPassStopsTheLoop : Prop :=
  ∀ (b : List Byte) (ms : List Message) (s : State), 5 ≤ b.length → b.length < (b.getD 1 0#8).toNat + 2 →
    (s.activity = .extracting none b ms →
      exec .xWait s = .next { s with activity := .idle, answers := s.answers ++ [.extraction ms b] }) ∧
    (∀ (r : ReaderId) (slot : Slot) (reader : Reader), s.Live r slot reader → s.activity = .extracting (some r) b ms →
      exec .xWait s = .next { s with
        activity := .delivering r
        slots := s.slots.set r
          { slot with reader := some { reader with buffer := b, queue := reader.queue ++ ms } } })

/-- X_EMIT (41_framebuffer.md R104): the candidate's Message is appended to the result, its `len + 2` bytes are removed,
the loop goes on. -/
def Obligations.EmitPassTakesTheFrame : Prop :=
  ∀ (o : Option ReaderId) (b : List Byte) (ms : List Message) (m : Message) (s : State), 5 ≤ b.length →
    (b.getD 1 0#8).toNat + 2 ≤ b.length → decodeFrame (b.take ((b.getD 1 0#8).toNat + 2)) = .ok m →
    s.activity = .extracting o b ms →
    exec .xEmit s = .next { s with activity := .extracting o (b.drop ((b.getD 1 0#8).toNat + 2)) (ms ++ [m]) }

/-- X_DROP (41_framebuffer.md R105): exactly one byte is removed, the loop goes on. -/
def Obligations.DropPassRemovesOneByte : Prop :=
  ∀ (o : Option ReaderId) (b : List Byte) (ms : List Message) (s : State), 5 ≤ b.length →
    (b.getD 1 0#8).toNat + 2 ≤ b.length →
    decodeFrame (b.take ((b.getD 1 0#8).toNat + 2)) = .error .invalidFrame →
    s.activity = .extracting o b ms → exec .xDrop s = .next { s with activity := .extracting o (b.drop 1) ms }

/-- In an extraction exactly one of the four passes completes (30_encoding.md R75). That the others are refused, and all
four when no extraction is in progress, is the model's choice (log 22). -/
def Obligations.ExactlyOnePassIsSelected : Prop :=
  (∀ s : State, (∀ o b ms, s.activity ≠ .extracting o b ms) →
    ∀ j ∈ [Instr.xShort, Instr.xWait, Instr.xEmit, Instr.xDrop], exec j s = .refused .noExtraction) ∧
  ∀ (s : State) (o : Option ReaderId) (b : List Byte) (ms : List Message), s.activity = .extracting o b ms →
    (∀ r, o = some r → (s.reader? r).isSome = true) →
    ∃ i ∈ [Instr.xShort, Instr.xWait, Instr.xEmit, Instr.xDrop], (∃ t, exec i s = .next t) ∧
      ∀ j ∈ [Instr.xShort, Instr.xWait, Instr.xEmit, Instr.xDrop], j ≠ i → exec j s = .refused .stepNotSelected

/-- The remainder meets the stop condition, has at most 256 bytes, and extraction of it does nothing (41_framebuffer.md
R108). -/
def Obligations.RemainderIsSettledAndIdempotent : Prop :=
  ∀ b r : List Byte, r = (extractAll b).2 →
    (r.length < 5 ∨ (5 ≤ r.length ∧ r.length < (r.getD 1 0#8).toNat + 2)) ∧ r.length ≤ 256 ∧ extractAll r = ([], r)

/-- The input is, in order, discarded runs and the frames of the emitted messages, then the remainder
(41_framebuffer.md R109). -/
def Obligations.ExtractionConservesTheStream : Prop :=
  ∀ b : List Byte, ∃ (runs : List (List Byte × Message)) (lastRun : List Byte),
    runs.map Prod.snd = (extractAll b).1 ∧ b = interleave lastRun runs ++ (extractAll b).2

/-- How the stream is cut does not matter to the extractor (41_framebuffer.md R110). -/
def Obligations.ExtractionIgnoresChunking : Prop :=
  ∀ x y : List Byte,
    extractAll (x ++ y) =
      ((extractAll x).1 ++ (extractAll ((extractAll x).2 ++ y)).1, (extractAll ((extractAll x).2 ++ y)).2)

/-- A Message's frame at the head, with at least five bytes present, is emitted by the next pass (41_framebuffer.md
R112). -/
def Obligations.ValidFrameAtTheHeadIsEmitted : Prop :=
  ∀ (m : Message) (x : List Byte), 5 ≤ (encodeMessage m ++ x).length →
    extractAll (encodeMessage m ++ x) = (m :: (extractAll x).1, (extractAll x).2)

/-- Every message an extraction yields stood, encoded and contiguous, in the input (70_reset_and_hazards.md R176). -/
def Obligations.EveryMessageStoodInTheStream : Prop :=
  ∀ (b : List Byte) (m : Message), m ∈ (extractAll b).1 → encodeMessage m <:+: b

/-! ### The reader -/

/-- INGEST (42_reader.md R120, R121): append, extract, queue, deliver; with active mode and a listener everything queued
is pushed in queue order under the current name and the queue is cleared, otherwise everything stays queued. That the
empty byte sequence takes the same path is the spec's own choice D18 (log 17). -/
def Obligations.IngestAppendsExtractsQueuesDelivers : Prop :=
  ∀ (r : ReaderId) (bytes : List Byte) (s : State) (slot : Slot) (reader : Reader), s.Live r slot reader →
    (∀ l, reader.mode = .active → reader.listener = some l →
      exec (.ingest r bytes) s = .next { s with
        slots := s.slots.set r
          { slot with
            reader := some { reader with buffer := (extractAll (reader.buffer ++ bytes)).2, queue := [] }
            trace := slot.trace ++ (reader.queue ++ (extractAll (reader.buffer ++ bytes)).1).map
              fun m => ⟨l, Config.notifyTag, reader.name, m⟩ } }) ∧
    (reader.mode = .passive ∨ reader.listener = none →
      exec (.ingest r bytes) s = .next { s with
        slots := s.slots.set r
          { slot with reader := some { reader with
              buffer := (extractAll (reader.buffer ++ bytes)).2
              queue := reader.queue ++ (extractAll (reader.buffer ++ bytes)).1 } } })

/-- DELIVER (42_reader.md R121): one notification per queued Message, in queue order, and the queue cleared; in passive
mode or without a listener nothing. The model's register of what is in progress goes idle (log 23). -/
def Obligations.DeliverPushesTheQueueOrNothing : Prop :=
  ∀ (r : ReaderId) (s : State) (slot : Slot) (reader : Reader), s.Live r slot reader →
    (∀ l, reader.mode = .active → reader.listener = some l →
      exec (.deliver r) s = .next { s with
        activity := if s.activity = .delivering r then .idle else s.activity
        slots := s.slots.set r
          { slot with
            reader := some { reader with queue := [] }
            trace := slot.trace ++ reader.queue.map fun m => ⟨l, Config.notifyTag, reader.name, m⟩ } }) ∧
    (reader.mode = .passive ∨ reader.listener = none →
      exec (.deliver r) s =
        .next { s with activity := if s.activity = .delivering r then .idle else s.activity })

/-- NOTIFY (42_reader.md R124; 30_encoding.md R73): the oldest queued Message goes to the listener under the current
name, and no copy is kept; passive, without a listener, or with nothing queued, nothing happens (60_exceptions.md
R145). That the row is run so is the model's choice (log 23). -/
def Obligations.NotifyPushesTheOldestMessage : Prop :=
  ∀ (r : ReaderId) (s : State) (slot : Slot) (reader : Reader), s.Live r slot reader →
    (∀ l m queue, reader.mode = .active → reader.listener = some l → reader.queue = m :: queue →
      exec (.notify r) s = .next { s with
        slots := s.slots.set r
          { slot with
            reader := some { reader with queue := queue }
            trace := slot.trace ++ [⟨l, Config.notifyTag, reader.name, m⟩] } }) ∧
    (reader.mode = .passive ∨ reader.listener = none ∨ reader.queue = [] → exec (.notify r) s = .next s)

/-- DRAIN (42_reader.md R122): in passive mode it returns the queue and empties it, in active mode it returns the empty
sequence. That the active queue is left as it is, is the spec's own choice D15 (log 11). -/
def Obligations.DrainReturnsTheQueueInPassiveMode : Prop :=
  ∀ (r : ReaderId) (s : State) (slot : Slot) (reader : Reader), s.Live r slot reader →
    (reader.mode = .passive →
      exec (.drain r) s = .next { s with
        slots := s.slots.set r
          { slot with
            reader := some { reader with queue := [] }
            replies := slot.replies ++ [.drained reader.queue] } }) ∧
    (reader.mode = .active →
      exec (.drain r) s = .next { s with
        slots := s.slots.set r
          { slot with replies := slot.replies ++ [.drained []] } })

/-- A second DRAIN with no INGEST between returns the empty sequence (20_memory.md R50). -/
def Obligations.SecondDrainReturnsNothing : Prop :=
  ∀ (r : ReaderId) (s : State) (slot : Slot) (reader : Reader), s.Live r slot reader → reader.mode = .passive →
    ∃ t u after, exec (.drain r) s = .next t ∧ exec (.drain r) t = .next u ∧ u.slots[r]? = some after ∧
      after.replies = slot.replies ++ [.drained reader.queue, .drained []]

/-- CONFIGURE (42_reader.md R123): a request for active mode without a listener fails with the configuration error and
applies the name alone; every other request succeeds and replaces mode, listener and name; nothing else changes. That a
CONFIGURE delivers nothing is the spec's own choice D16 (log 12). -/
def Obligations.ConfigureAppliesAllOrTheNameAlone : Prop :=
  ErrorKind.text .configurationError = "cannot enable active mode without a listener" ∧
  ∀ (r : ReaderId) (a : Bool) (l : Option Listener) (n : Name) (s : State) (slot : Slot) (reader : Reader),
    s.Live r slot reader →
    (a = true ∧ l = none →
      exec (.configure r ⟨some a, some l, some n⟩) s = .next { s with
        slots := s.slots.set r
          { slot with
            reader := some { reader with name := n }
            replies := slot.replies ++ [.error .configurationError] } }) ∧
    (a = false ∨ l ≠ none →
      exec (.configure r ⟨some a, some l, some n⟩) s = .next { s with
        slots := s.slots.set r
          { slot with
            reader := some { reader with
              mode := (if a = true then .active else .passive), listener := l, name := n }
            replies := slot.replies ++ [.ok] } })

/-- A CONFIGURE record that lacks a field is refused (60_exceptions.md R154; the spec's own choice D14, log 15). -/
def Obligations.ConfigureWithAFieldLeftOutIsRefused : Prop :=
  ∀ (r : ReaderId) (o : Options) (s : State) (slot : Slot) (reader : Reader), s.Live r slot reader →
    (o.active = none ∨ o.listener = none ∨ o.name = none) → exec (.configure r o) s = .refused .partialOptions

/-- Mode, listener and name of an existing reader change by a CONFIGURE of that reader alone (10_state.md R23, R24,
R25). -/
def Obligations.OnlyConfigureChangesTheConfiguration : Prop :=
  ∀ (i : Instr) (s t : State) (r : ReaderId) (before after : Reader), exec i s = .next t →
    s.reader? r = some before → t.reader? r = some after → (∀ o, i ≠ .configure r o) →
    after.mode = before.mode ∧ after.listener = before.listener ∧ after.name = before.name

/-- A backlog goes out at the first INGEST after the CONFIGURE to active mode, under the new name, ahead of the new
messages, and not at the CONFIGURE (42_reader.md R127; 70_reset_and_hazards.md R170). That CONFIGURE does not deliver is
the spec's own choice D16 (log 12). -/
def Obligations.BacklogIsPushedAtTheNextIngest : Prop :=
  ∀ (r : ReaderId) (l : Listener) (n : Name) (bytes : List Byte) (s : State) (slot : Slot) (reader : Reader),
    s.Live r slot reader →
    ∃ t mid u last, exec (.configure r ⟨some true, some (some l), some n⟩) s = .next t ∧
      t.slots[r]? = some mid ∧ mid.trace = slot.trace ∧ (mid.reader.map Reader.queue) = some reader.queue ∧
      exec (.ingest r bytes) t = .next u ∧ u.slots[r]? = some last ∧ (last.reader.map Reader.queue) = some [] ∧
      last.trace = slot.trace ++ (reader.queue ++ (extractAll (reader.buffer ++ bytes)).1).map
        fun m => ⟨l, Config.notifyTag, n, m⟩

/-- Two frames in one INGEST of a passive reader with nothing buffered or queued: DRAIN returns both in order, a second
DRAIN nothing (42_reader.md R129). The second frame has a payload. -/
def Obligations.TwoFramesInOneIngestAreDrainedInOrder : Prop :=
  ∀ (r : ReaderId) (m1 m2 : Message) (s : State) (slot : Slot) (reader : Reader), s.Live r slot reader →
    reader.mode = .passive → reader.buffer = [] → reader.queue = [] → m2.payload ≠ [] →
    ∃ t u v after, exec (.ingest r (encodeMessage m1 ++ encodeMessage m2)) s = .next t ∧
      exec (.drain r) t = .next u ∧ exec (.drain r) u = .next v ∧ v.slots[r]? = some after ∧
      after.replies = slot.replies ++ [.drained [m1, m2], .drained []]

/-- A frame without payload waits in an empty buffer until one more byte arrives (70_reset_and_hazards.md R164). -/
def Obligations.TrailingFourByteFrameIsHeldBack : Prop :=
  ∀ (r : ReaderId) (m : Message) (b : Byte) (s : State) (slot : Slot) (reader : Reader), s.Live r slot reader →
    reader.mode = .passive → reader.buffer = [] → m.payload = [] →
    ∃ t u mid last, exec (.ingest r (encodeMessage m)) s = .next t ∧ t.slots[r]? = some mid ∧
      mid.reader = some { reader with buffer := encodeMessage m } ∧
      exec (.ingest r [b]) t = .next u ∧ u.slots[r]? = some last ∧
      last.reader = some { reader with buffer := [b], queue := reader.queue ++ [m] }

/-- One INGEST of a stream and two INGESTs of its parts leave the same machine: buffer, queue, output trace and
replies (41_framebuffer.md R110; 20_memory.md R45). -/
def Obligations.IngestIgnoresChunking : Prop :=
  ∀ (r : ReaderId) (x y : List Byte) (s : State) (slot : Slot) (reader : Reader), s.Live r slot reader →
    ∃ t, exec (.ingest r x) s = .next t ∧ exec (.ingest r y) t = exec (.ingest r (x ++ y)) s

/-- With INGESTs of at most k bytes a settled buffer never exceeds 256 + k bytes, and is at most 256 bytes again
afterwards (70_reset_and_hazards.md R173). -/
def Obligations.BufferStaysWithinItsBound : Prop :=
  ∀ (r : ReaderId) (k : Nat) (bytes : List Byte) (s : State) (slot : Slot) (reader : Reader), s.Live r slot reader →
    slot.settled = true → bytes.length ≤ k →
    (bufAppend reader.buffer bytes).length ≤ 256 + k ∧
    ∃ t after, exec (.ingest r bytes) s = .next t ∧ t.reader? r = some after ∧ after.buffer.length ≤ 256

/-! ### Several readers -/

/-- An operation on one reader changes no other (20_memory.md R53). -/
def Obligations.OperationsOnOneReaderLeaveTheOthers : Prop :=
  ∀ (i : Instr) (r r' : ReaderId) (s t : State),
    i = .stop r ∨ i = .drain r ∨ i = .deliver r ∨ i = .notify r ∨ (∃ bytes, i = .ingest r bytes) ∨
      (∃ o, i = .configure r o) →
    exec i s = .next t → r' ≠ r → t.slots[r']? = s.slots[r']? ∧ t.answers = s.answers ∧ t.slots.length = s.slots.length

/-- What an operation on a reader does to it, and whether it is refused, depends on that reader alone (20_memory.md R47,
R53). -/
def Obligations.OutcomeDependsOnTheReaderAlone : Prop :=
  ∀ (i : Instr) (r : ReaderId) (s1 s2 : State),
    i = .stop r ∨ i = .drain r ∨ i = .deliver r ∨ i = .notify r ∨ (∃ bytes, i = .ingest r bytes) ∨
      (∃ o, i = .configure r o) →
    s1.slots[r]? = s2.slots[r]? →
    (∃ t1 t2, exec i s1 = .next t1 ∧ exec i s2 = .next t2 ∧ t1.slots[r]? = t2.slots[r]?) ∨
    (∃ why, exec i s1 = .refused why ∧ exec i s2 = .refused why)

/-! ### Commands -/

/-- The unassigned select codes are refused, each by its code (30_encoding.md R72; 60_exceptions.md R154; the codes are
the spec's own choice D2, log 25). -/
def Obligations.UnassignedCodesAreRefused : Prop :=
  ∀ s : State, exec .unassigned0101 s = .refused (.unassignedCode 0b0101#4) ∧
    exec .unassigned0110 s = .refused (.unassignedCode 0b0110#4) ∧
    exec .unassigned0111 s = .refused (.unassignedCode 0b0111#4) ∧
    exec .unassigned1110 s = .refused (.unassignedCode 0b1110#4) ∧
    exec .unassigned1111 s = .refused (.unassignedCode 0b1111#4)

/-- The sixteen select codes of 30_encoding.md R72 (the spec's own numbers, D2) with operand bytes of zeros, and a few
commands with operands (how an operand travels is the model's choice, log 1). -/
def Obligations.SelectCodesReadAsTheTable : Prop :=
  decodeTableWord 8 0b0000 = some (.start ⟨none, none, none⟩) ∧ decodeTableWord 8 0b0001 = some (.stop 0) ∧
  decodeTableWord 8 0b0010 = some (.ingest 0 []) ∧ decodeTableWord 8 0b0011 = some (.drain 0) ∧
  decodeTableWord 8 0b0100 = some (.configure 0 ⟨some false, some none, some ⟨[]⟩⟩) ∧
  decodeTableWord 8 0b0101 = some .unassigned0101 ∧ decodeTableWord 8 0b0110 = some .unassigned0110 ∧
  decodeTableWord 8 0b0111 = some .unassigned0111 ∧
  decodeTableWord 8 0b1000 = some (.checksum []) ∧ decodeTableWord 8 0b1001 = some (.encode 0#8 0#8 []) ∧
  decodeTableWord 8 0b1010 = some (.decode []) ∧ decodeTableWord 8 0b1011 = some (.isvalid []) ∧
  decodeTableWord 8 0b1100 = some (.append [] []) ∧ decodeTableWord 8 0b1101 = some (.extractall []) ∧
  decodeTableWord 8 0b1110 = some .unassigned1110 ∧ decodeTableWord 8 0b1111 = some .unassigned1111 ∧
  decode [0b0010#8, 1#8, 0#8, 1#8, 0x68#8, 1#8, 0x04#8, 0#8] = .ok (.ingest 1 [0x68#8, 0x04#8], []) ∧
  decode [0b0100#8, 0#8, 0#8, 1#8, 0#8, 1#8, 1#8, 0x4C#8, 0#8, 0#8, 1#8, 0x42#8, 0#8] =
    .ok (.configure 0 ⟨some true, some (some ⟨[0x4C#8]⟩), some ⟨[0x42#8]⟩⟩, []) ∧
  decode [0b1001#8, 0x68#8, 0x18#8, 1#8, 0x0A#8, 0#8] = .ok (.encode 0x68#8 0x18#8 [0x0A#8], [])

/-- Every command is read back from its bytes with every operand, whatever follows it (30_encoding.md R72 gives the
select code; the operand bytes are the model's choice, log 1). -/
def Obligations.EveryCommandIsReadBack : Prop :=
  ∀ (i : Instr) (op : BitVec 4) (rest : List Byte), i.selectCode = some op →
    ∃ bytes, encode i = some bytes ∧ (bytes.head?).map BitVec.toNat = some op.toNat ∧
      decode (bytes ++ rest) = .ok (i, rest)

/-- The wire format is read back, fields from bytes and bytes from fields (30_encoding.md R60, R67, R68). -/
def Obligations.EveryWireFrameIsReadBack : Prop :=
  (∀ (src len dst : Byte) (payload : List Byte) (c : Byte), (Instr.frame src len dst payload c).wellFormed = true →
    ∃ f, encodeWire (.frame src len dst payload c) = some f ∧ f.length = len.toNat + 2 ∧
      decodeWire f = .ok (.frame src len dst payload c)) ∧
  (∀ (f : List Byte) (i : Instr), decodeWire f = .ok i → i.wellFormed = true ∧ encodeWire i = some f)

/-! ### Steps -/

/-- A step with nothing in progress, scheduled or waiting runs the decoded command on the rest of the port, whole or pass
by pass; only INGEST and EXTRACTALL have passes (`PassGrainEntersTheLoop`) (20_memory.md R47; 41_framebuffer.md R101; the
port and the schedule are the model's, log 18, 19, 20, 27). -/
def Obligations.StepRunsTheDecodedCommand : Prop :=
  ∀ (s : State) (i : Instr) (rest : List Byte), s.activity = .idle → s.turns = [] → s.NothingWaits →
    decode s.port = .ok (i, rest) → s.grain = .whole ∨ ¬ HasPasses i → step s = exec i { s with port := rest }

/-- Bytes that are no command are refused, by the decoder's reason, when the port is read: with no turn set and nothing
waiting, or at an issue turn (the command's bytes are the model's choice, log 1, log 30; the turns, log 19). -/
def Obligations.BytesThatAreNoCommandAreRefused : Prop :=
  ∀ (s : State) (why : Reject), s.activity = .idle → (s.turns = [] ∧ s.NothingWaits) ∨ (∃ ts, s.turns = .issue :: ts) →
    s.port ≠ [] → decode s.port = .error why → step s = .refused (.badCommand why)

/-- At an issue turn an INGEST, DRAIN or CONFIGURE only enters the end of its reader's mailbox (10_state.md R29), and is
refused where there is no such reader (60_exceptions.md R154; D13, log 14); every other command enters no mailbox and is
run at once, at the pass grain an EXTRACTALL by entering its loop (log 19, log 20). -/
def Obligations.IssuedOperationsEnterTheMailbox : Prop :=
  ∀ (s : State) (i : Instr) (ts : List Turn) (rest : List Byte), s.activity = .idle → s.turns = .issue :: ts →
    decode s.port = .ok (i, rest) →
    (∀ (r : ReaderId) (q : Request), i = q.toInstr r →
      (∀ (slot : Slot) (reader : Reader), s.Live r slot reader →
        step s = .next { s with
          turns := ts
          port := rest
          slots := s.slots.set r { slot with reader := some { reader with mailbox := reader.mailbox ++ [q] } } }) ∧
      (s.slots[r]? = none → step s = .refused .beforeStart) ∧
      (∀ slot : Slot, s.slots[r]? = some slot → slot.reader = none → step s = .refused .afterStop)) ∧
    (¬ EntersMailbox i → s.grain = .whole ∨ ¬ HasPasses i → step s = exec i { s with turns := ts, port := rest }) ∧
    (∀ b, s.grain = .pass → i = .extractall b →
      step s = .next { s with turns := ts, port := rest, activity := .extracting none b [] })

/-- A reader's turn processes the oldest operation of its mailbox (20_memory.md R47; 10_state.md R29; log 19); at the
pass grain an INGEST taken from it enters the extraction loop on the appended buffer (42_reader.md R120; log 20). -/
def Obligations.WorkProcessesTheOldestOperation : Prop :=
  ∀ (s : State) (r : ReaderId) (q : Request) (qs : List Request) (ts : List Turn) (slot : Slot) (reader : Reader),
    s.activity = .idle → s.turns = .work r :: ts → s.Live r slot reader → reader.mailbox = q :: qs →
    (s.grain = .whole ∨ (∀ bytes, q ≠ .ingest bytes) →
      step s = exec (q.toInstr r) { s with
        turns := ts
        slots := s.slots.set r { slot with reader := some { reader with mailbox := qs } } }) ∧
    (∀ bytes, s.grain = .pass → q = .ingest bytes →
      step s = .next { s with
        turns := ts
        activity := .extracting (some r) (reader.buffer ++ bytes) []
        slots := s.slots.set r { slot with reader := some { reader with mailbox := qs } } })

/-- With no turn set, operations that wait in a mailbox are processed before the port is read, the lowest address first
(70_reset_and_hazards.md R174: every issued operation is eventually processed; the order between readers is the model's
choice, log 19); at the pass grain an INGEST is processed by entering its loop (42_reader.md R120; log 20). -/
def Obligations.WaitingOperationsAreProcessedFirst : Prop :=
  ∀ (s : State) (r : ReaderId) (q : Request) (qs : List Request) (slot : Slot) (reader : Reader),
    s.activity = .idle → s.turns = [] → s.Live r slot reader → reader.mailbox = q :: qs →
    (∀ r' < r, ∀ reader', s.reader? r' = some reader' → reader'.mailbox = []) →
    (s.grain = .whole ∨ (∀ bytes, q ≠ .ingest bytes) →
      step s = exec (q.toInstr r) { s with
        slots := s.slots.set r { slot with reader := some { reader with mailbox := qs } } }) ∧
    (∀ bytes, s.grain = .pass → q = .ingest bytes →
      step s = .next { s with
        activity := .extracting (some r) (reader.buffer ++ bytes) []
        slots := s.slots.set r { slot with reader := some { reader with mailbox := qs } } })

/-- With nothing in progress, scheduled, waiting or issued, the machine stays as it is (60_exceptions.md R156); a turn
that finds nothing to issue or to process passes (log 19). -/
def Obligations.IdleMachineStaysAsItIs : Prop :=
  ∀ s : State, s.activity = .idle →
    (s.turns = [] → s.port = [] → s.NothingWaits → step s = .next s) ∧
    (∀ ts, s.turns = .issue :: ts → s.port = [] → step s = .next { s with turns := ts }) ∧
    (∀ r ts, s.turns = .work r :: ts → (∀ reader, s.reader? r = some reader → reader.mailbox = []) →
      step s = .next { s with turns := ts })

/-- Pass by pass, a step enters the extraction loop of an INGEST or EXTRACTALL of the port and leaves the stores alone
(41_framebuffer.md R101 "Granularity"; log 20); an INGEST without its reader is refused (60_exceptions.md R154; D13,
log 14). -/
def Obligations.PassGrainEntersTheLoop : Prop :=
  ∀ (s : State) (rest : List Byte), s.activity = .idle → s.turns = [] → s.grain = .pass → s.NothingWaits →
    (∀ b, decode s.port = .ok (.extractall b, rest) →
      step s = .next { s with port := rest, activity := .extracting none b [] }) ∧
    (∀ (r : ReaderId) (bytes : List Byte), decode s.port = .ok (.ingest r bytes, rest) →
      (∀ (slot : Slot) (reader : Reader), s.Live r slot reader →
        step s = .next { s with port := rest, activity := .extracting (some r) (reader.buffer ++ bytes) [] }) ∧
      (s.slots[r]? = none → step s = .refused .beforeStart) ∧
      (∀ slot : Slot, s.slots[r]? = some slot → slot.reader = none → step s = .refused .afterStop))

/-- Pass by pass and whole, INGEST and EXTRACTALL end in the same state (41_framebuffer.md R101 "Granularity"; the
register of what is in progress is the model's, log 20). -/
def Obligations.PassesRefineTheWholeOperation : Prop :=
  (∀ (b : List Byte) (s : State), s.activity = .idle →
    ∃ n, core.run n { s with activity := .extracting none b [] } = exec (.extractall b) s) ∧
  (∀ (r : ReaderId) (bytes : List Byte) (s : State) (slot : Slot) (reader : Reader), s.activity = .idle →
    s.Live r slot reader →
    ∃ n, core.run n { s with activity := .extracting (some r) (reader.buffer ++ bytes) [] } =
      exec (.ingest r bytes) s)

/-- With an operation in progress a step is its own next internal step, and where its reader exists that step completes:
in the loop one of the four passes (41_framebuffer.md R106), in the delivery NOTIFY while there is a Message to push and
then DELIVER (42_reader.md R121). No other operation runs before it ends: the port, the turns and every mailbox stay as
they are (20_memory.md R46). The register of what is in progress is the model's (log 20, 22, 23). -/
def Obligations.OperationsInProgressNeverStop : Prop :=
  (∀ (s : State) (i : Instr), s.internalInstr = some i → step s = exec i s) ∧
  ∀ s : State, s.activityOwned = true → s.activity ≠ .idle → ∃ (i : Instr) (t : State),
    step s = exec i s ∧ exec i s = .next t ∧
    (∀ o b ms, s.activity = .extracting o b ms → i ∈ [Instr.xShort, Instr.xWait, Instr.xEmit, Instr.xDrop]) ∧
    (∀ r reader, s.activity = .delivering r → s.reader? r = some reader →
      (reader.mode = .active ∧ reader.listener ≠ none ∧ reader.queue ≠ [] → i = .notify r) ∧
      (reader.mode = .passive ∨ reader.listener = none ∨ reader.queue = [] → i = .deliver r)) ∧
    t.port = s.port ∧ t.turns = s.turns ∧ t.slots.length = s.slots.length ∧
    ∀ r, (t.reader? r).map Reader.mailbox = (s.reader? r).map Reader.mailbox

/-! ### Invariants -/

/-- At reset nothing is in progress and both invariants below hold (10_state.md R32, R34). That reset is one START is the
model's choice (log 2); the register of what is in progress is the model's (log 20). -/
def Obligations.ResetMeetsTheInvariants : Prop :=
  State.reset.activity = .idle ∧ State.reset.buffersSettled = true ∧ State.reset.activityOwned = true

/-- Every step keeps every reader's buffer at the stop condition of the extractor, whatever is issued (10_state.md R34
item 2). -/
def Obligations.EveryStepKeepsTheBuffersSettled : Prop :=
  ∀ s t : State, s.buffersSettled = true → step s = .next t → t.buffersSettled = true

/-- Every step keeps the reader of the operation in progress in existence (20_memory.md R46: no STOP comes in between;
that nothing else does is `OperationsInProgressNeverStop`). The register of what is in progress is the model's
(log 20). -/
def Obligations.EveryStepKeepsTheActivityOwned : Prop :=
  ∀ s t : State, s.activityOwned = true → step s = .next t → t.activityOwned = true
end

