-- ==== Sys2Proof/Laws/State.lean ====
section
/-! SUPPORT. One lemma per field per update of the state, an instance and a reader. -/

namespace Sys2Proof.Machine

@[simp] theorem putSlot_slots (s : State) (r : ReaderId) (x : Slot) : (s.putSlot r x).slots = s.slots.set r x := rfl
@[simp] theorem putSlot_answers (s : State) (r : ReaderId) (x : Slot) : (s.putSlot r x).answers = s.answers := rfl
@[simp] theorem putSlot_activity (s : State) (r : ReaderId) (x : Slot) : (s.putSlot r x).activity = s.activity := rfl
@[simp] theorem putSlot_port (s : State) (r : ReaderId) (x : Slot) : (s.putSlot r x).port = s.port := rfl
@[simp] theorem putSlot_turns (s : State) (r : ReaderId) (x : Slot) : (s.putSlot r x).turns = s.turns := rfl
@[simp] theorem putSlot_grain (s : State) (r : ReaderId) (x : Slot) : (s.putSlot r x).grain = s.grain := rfl

@[simp] theorem answer_slots (s : State) (a : Answer) : (s.answer a).slots = s.slots := rfl
@[simp] theorem answer_answers (s : State) (a : Answer) : (s.answer a).answers = s.answers ++ [a] := rfl
@[simp] theorem answer_activity (s : State) (a : Answer) : (s.answer a).activity = s.activity := rfl
@[simp] theorem answer_port (s : State) (a : Answer) : (s.answer a).port = s.port := rfl
@[simp] theorem answer_turns (s : State) (a : Answer) : (s.answer a).turns = s.turns := rfl
@[simp] theorem answer_grain (s : State) (a : Answer) : (s.answer a).grain = s.grain := rfl

@[simp] theorem beginExtraction_slots (s : State) (o : Option ReaderId) (b : List Byte) :
    (s.beginExtraction o b).slots = s.slots := rfl
@[simp] theorem beginExtraction_answers (s : State) (o : Option ReaderId) (b : List Byte) :
    (s.beginExtraction o b).answers = s.answers := rfl
@[simp] theorem beginExtraction_activity (s : State) (o : Option ReaderId) (b : List Byte) :
    (s.beginExtraction o b).activity = .extracting o b [] := rfl
@[simp] theorem beginExtraction_port (s : State) (o : Option ReaderId) (b : List Byte) :
    (s.beginExtraction o b).port = s.port := rfl
@[simp] theorem beginExtraction_turns (s : State) (o : Option ReaderId) (b : List Byte) :
    (s.beginExtraction o b).turns = s.turns := rfl
@[simp] theorem beginExtraction_grain (s : State) (o : Option ReaderId) (b : List Byte) :
    (s.beginExtraction o b).grain = s.grain := rfl

@[simp] theorem putReader_reader (x : Slot) (a : Reader) : (x.putReader a).reader = some a := rfl
@[simp] theorem putReader_trace (x : Slot) (a : Reader) : (x.putReader a).trace = x.trace := rfl
@[simp] theorem putReader_replies (x : Slot) (a : Reader) : (x.putReader a).replies = x.replies := rfl

@[simp] theorem reply_reader (x : Slot) (p : Reply) : (x.reply p).reader = x.reader := rfl
@[simp] theorem reply_trace (x : Slot) (p : Reply) : (x.reply p).trace = x.trace := rfl
@[simp] theorem reply_replies (x : Slot) (p : Reply) : (x.reply p).replies = x.replies ++ [p] := rfl

@[simp] theorem emit_reader (x : Slot) (ns : List Notification) : (x.emit ns).reader = x.reader := rfl
@[simp] theorem emit_trace (x : Slot) (ns : List Notification) : (x.emit ns).trace = x.trace ++ ns := rfl
@[simp] theorem emit_replies (x : Slot) (ns : List Notification) : (x.emit ns).replies = x.replies := rfl

@[simp] theorem absorb_buffer (a : Reader) (bytes : List Byte) :
    (a.absorb bytes).buffer = (extractAll (bufAppend a.buffer bytes)).2 := rfl
@[simp] theorem absorb_queue (a : Reader) (bytes : List Byte) :
    (a.absorb bytes).queue = queueAppend a.queue (extractAll (bufAppend a.buffer bytes)).1 := rfl
@[simp] theorem absorb_mode (a : Reader) (bytes : List Byte) : (a.absorb bytes).mode = a.mode := rfl
@[simp] theorem absorb_listener (a : Reader) (bytes : List Byte) : (a.absorb bytes).listener = a.listener := rfl
@[simp] theorem absorb_name (a : Reader) (bytes : List Byte) : (a.absorb bytes).name = a.name := rfl
@[simp] theorem absorb_mailbox (a : Reader) (bytes : List Byte) : (a.absorb bytes).mailbox = a.mailbox := rfl
@[simp] theorem absorb_pushTarget (a : Reader) (bytes : List Byte) : (a.absorb bytes).pushTarget = a.pushTarget := rfl

end Sys2Proof.Machine
end

