-- ==== Sys2Proof/Laws/Ops.lean ====
section
/-! SUPPORT. What each shared operation can do, said once. -/

namespace Sys2Proof.Machine

@[simp] theorem bufAppend_eq (b x : List Byte) : bufAppend b x = b ++ x := rfl
@[simp] theorem bufDrop_eq (b : List Byte) (n : Nat) : bufDrop b n = b.drop n := rfl
@[simp] theorem bufTake_eq (b : List Byte) (n : Nat) : bufTake b n = b.take n := rfl
@[simp] theorem queueAppend_eq (q ms : List Message) : queueAppend q ms = q ++ ms := rfl
@[simp] theorem queueClear_eq (q : List Message) : queueClear q = [] := rfl
@[simp] theorem queueTakeAll_eq (q : List Message) : queueTakeAll q = (q, []) := rfl

/-- A reader that exists is at its address. -/
theorem reader?_eq_some {s : State} {r : ReaderId} {a : Reader} :
    s.reader? r = some a ↔ ∃ slot, s.slots[r]? = some slot ∧ slot.reader = some a := by
  simp [State.reader?, Option.bind_eq_some_iff]

/-- On a reader that exists, go on with it. -/
theorem onReader_live {s : State} {r : ReaderId} {slot : Slot} {a : Reader} (k : Slot → Reader → Result)
    (hs : s.slots[r]? = some slot) (ha : slot.reader = some a) : onReader r s k = k slot a := by
  simp [onReader, hs, ha]

/-- Before START there is nothing to go on with. -/
theorem onReader_beforeStart {s : State} {r : ReaderId} (k : Slot → Reader → Result) (hs : s.slots[r]? = none) :
    onReader r s k = .refused .beforeStart := by
  simp [onReader, hs]

/-- After STOP there is nothing to go on with. -/
theorem onReader_afterStop {s : State} {r : ReaderId} {slot : Slot} (k : Slot → Reader → Result)
    (hs : s.slots[r]? = some slot) (ha : slot.reader = none) : onReader r s k = .refused .afterStop := by
  simp [onReader, hs, ha]

/-- A next state through a reader came from a reader that exists. -/
theorem onReader_next {s t : State} {r : ReaderId} {k : Slot → Reader → Result} (h : onReader r s k = .next t) :
    ∃ slot a, s.slots[r]? = some slot ∧ slot.reader = some a ∧ k slot a = .next t := by
  unfold onReader at h
  split at h
  · cases h
  · rename_i slot hs
    split at h
    · cases h
    · rename_i a ha
      exact ⟨slot, a, hs, ha, h⟩

/-- The written instance is read back. -/
theorem putSlot_same {s : State} {r : ReaderId} {old : Slot} (x : Slot) (h : s.slots[r]? = some old) :
    (s.putSlot r x).slots[r]? = some x := by
  have hr : r < s.slots.length := (List.getElem?_eq_some_iff.mp h).1
  simp [hr]

/-- Every other instance is left alone. -/
theorem putSlot_other {s : State} {r r' : ReaderId} (x : Slot) (h : r' ≠ r) :
    (s.putSlot r x).slots[r']? = s.slots[r']? := by
  simp [List.getElem?_set_ne (Ne.symm h)]

/-- Two writes of one instance are the second. -/
@[simp] theorem putSlot_putSlot (s : State) (r : ReaderId) (x y : Slot) :
    (s.putSlot r x).putSlot r y = s.putSlot r y := by
  simp [State.putSlot]

/-- A reader pushes in active mode with a listener. -/
theorem pushTarget_eq_some {a : Reader} {l : Listener} :
    a.pushTarget = some l ↔ a.mode = .active ∧ a.listener = some l := by
  unfold Reader.pushTarget
  split <;> simp_all

/-- A reader that pushes delivers its whole queue. -/
theorem deliver_push {x : Slot} {a : Reader} {l : Listener} (h : a.pushTarget = some l) :
    x.deliver a = (x.putReader { a with queue := [] }).emit (a.queue.map (notification l a.name)) := by
  simp [Slot.deliver, h]

/-- A reader that does not push keeps its queue. -/
theorem deliver_hold {x : Slot} {a : Reader} (h : a.pushTarget = none) : x.deliver a = x.putReader a := by
  simp [Slot.deliver, h]

/-- Delivery changes nothing of the reader but its queue. -/
theorem deliver_reader (x : Slot) (a : Reader) : ∃ q, (x.deliver a).reader = some { a with queue := q } := by
  unfold Slot.deliver
  split
  · exact ⟨[], rfl⟩
  · exact ⟨a.queue, rfl⟩

end Sys2Proof.Machine
end

