-- ==== Sys2Proof/Laws/Codec.lean ====
section
/-! SUPPORT. What the codec does: the fold, the layout, and when a frame decodes. -/

namespace Sys2Proof.Machine

@[simp] theorem xorFold_nil : xorFold [] = 0#8 := rfl

/-- The fold from any start is the start with the fold. -/
theorem xorFold_from (acc : Byte) (s : List Byte) : s.foldl (fun a b => a ^^^ b) acc = acc ^^^ xorFold s := by
  induction s generalizing acc with
  | nil => simp [xorFold]
  | cons b s ih =>
    simp only [xorFold, List.foldl_cons]
    rw [ih, ih (0#8 ^^^ b)]
    simp [BitVec.xor_assoc]

@[simp] theorem xorFold_cons (b : Byte) (s : List Byte) : xorFold (b :: s) = b ^^^ xorFold s := by
  rw [xorFold, List.foldl_cons, xorFold_from]
  simp

/-- The length of the bytes of a frame (30_encoding.md R62). -/
theorem frameBytes_length (src len dst : Byte) (p : List Byte) (c : Byte) :
    (frameBytes src len dst p c).length = p.length + 4 := by
  simp [frameBytes]

/-- A Message's frame is its five fields. -/
theorem encodeMessage_eq (m : Message) :
    encodeMessage m =
      frameBytes m.src (lenByte m.payload.length) m.dst m.payload (xorFold (messageBody m)) := by
  simp [encodeMessage, messageBody, frameBytes]

/-- The length of a Message's frame (40_codec.md R81). -/
@[simp] theorem encodeMessage_length (m : Message) : (encodeMessage m).length = m.payload.length + 4 := by
  rw [encodeMessage_eq, frameBytes_length]

/-- The `len` byte of a Message is not truncated (40_codec.md R86 (b)). -/
theorem lenByte_toNat {n : Nat} (h : n ≤ Config.maxPayload) : (lenByte n).toNat = n + 2 := by
  simp only [Config.maxPayload] at h
  simp only [lenByte, BitVec.toNat_ofNat]
  omega

/-- When `decode` succeeds, and what it gives (40_codec.md R82). -/
theorem decodeFrame_eq_ok {f : List Byte} {m : Message} :
    decodeFrame f = .ok m ↔
      f.length = declaredLength f ∧ 2 ≤ frameLen f ∧ xorFold (frameBody f) = frameChecksum f ∧
        m.src = byteAt f 0 ∧ m.dst = byteAt f 2 ∧ m.payload = framePayload f := by
  obtain ⟨src, dst, p, hp⟩ := m
  unfold decodeFrame
  split
  · rename_i h
    simp only [reduceCtorEq, false_iff]
    intro hc
    simp only [declaredLength] at hc
    omega
  · split
    · rename_i hl
      split
      · rename_i hx
        simp [hx]
      · split
        · rename_i hx h2
          simp only [reduceCtorEq, false_iff]
          intro hc
          omega
        · rename_i hx h2
          simp only [ne_eq, Decidable.not_not] at hx
          simp only [Except.ok.injEq, Message.mk.injEq, hl, hx, true_and, not_lt.mp h2]
          tauto
    · rename_i hl
      simp [hl]

/-- The only error of `decode` is `InvalidFrame` (60_exceptions.md R141). -/
theorem decodeFrame_error {f : List Byte} {e : ErrorKind} (h : decodeFrame f = .error e) : e = .invalidFrame := by
  unfold decodeFrame at h
  split at h
  · cases h; rfl
  · split at h
    · split at h
      · cases h; rfl
      · split at h
        · cases h; rfl
        · cases h
    · cases h; rfl

end Sys2Proof.Machine
end

