-- ==== Sys2Proof/Laws/Decode.lean ====
section
/-! SUPPORT. Each kind of operand is read back from its bytes. -/

namespace Sys2Proof

@[simp] theorem read_ok_next {α β : Type} (a : α) (rest : List Byte) (k : α → List Byte → Read β) :
    Read.next (.ok (a, rest)) k = k a rest := rfl

@[simp] theorem readFlag_put (b : Bool) (rest : List Byte) : readFlag (putFlag b ++ rest) = .ok (b, rest) := by
  cases b <;> rfl

@[simp] theorem readFlag_zero (rest : List Byte) : readFlag (0#8 :: rest) = .ok (false, rest) := rfl

@[simp] theorem readFlag_one (rest : List Byte) : readFlag (1#8 :: rest) = .ok (true, rest) := rfl

@[simp] theorem readNat_put (n : Nat) (rest : List Byte) : readNat (putNat n ++ rest) = .ok (n, rest) := by
  induction n with
  | zero => rfl
  | succ n ih => simp [putNat, readNat, ih]

/-- A byte sequence is read back, whatever follows it. -/
@[simp] theorem readBytes_put (bs rest : List Byte) : readBytes (putBytes bs ++ rest) = .ok (bs, rest) := by
  induction bs with
  | nil => cases rest <;> rfl
  | cons b bs ih => simp [putBytes, readBytes, ih]

@[simp] theorem readListener_put (l : Listener) (rest : List Byte) :
    readListener (putListener l ++ rest) = .ok (l, rest) := by
  simp [readListener, putListener]

@[simp] theorem readName_put (n : Name) (rest : List Byte) : readName (putName n ++ rest) = .ok (n, rest) := by
  simp [readName, putName]

/-- An optional value is read back if its values are. -/
theorem readOption_put {α : Type} {p : List Byte → Read α} {q : α → List Byte}
    (h : ∀ a rest, p (q a ++ rest) = .ok (a, rest)) (x : Option α) (rest : List Byte) :
    readOption p (putOption q x ++ rest) = .ok (x, rest) := by
  cases x <;> simp [readOption, putOption, h]

/-- A field is read back if its values are. -/
theorem readField_put {α : Type} {p : List Byte → Read α} {q : α → List Byte}
    (h : ∀ a rest, p (q a ++ rest) = .ok (a, rest)) (x : Option α) (rest : List Byte) :
    readField p (putField q x ++ rest) = .ok (x, rest) := by
  cases x <;> simp [readField, putField, h]

/-- The name of a select code is read from the low four bits of the first byte. -/
theorem selectByte_toNat (op : BitVec 4) : (op.zeroExtend 8 : Byte).toNat = op.toNat := by
  revert op; decide

end Sys2Proof
end

