-- ==== Sys2Proof/Laws/FrameBuffer.lean ====
section
/-! SUPPORT. What a pass of the extraction loop does, and that the loop's bound on passes is never met. -/

namespace Sys2Proof.Machine

/-- The condition of step 1 (41_framebuffer.md R102). -/
theorem tooShort_iff {b : List Byte} : tooShort b = true ↔ b.length < 5 := decide_eq_true_iff

/-- The condition of step 2 (41_framebuffer.md R103). -/
theorem incomplete_iff {b : List Byte} : incomplete b = true ↔ b.length - 2 < frameLen b := decide_eq_true_iff

/-- The stop condition (41_framebuffer.md R108). -/
theorem settled_iff {b : List Byte} : settled b = true ↔ b.length < 5 ∨ b.length - 2 < frameLen b := by
  rw [settled, Bool.or_eq_true, tooShort_iff, incomplete_iff]

/-- A pass that emits: the candidate decodes and lies whole in the buffer (41_framebuffer.md R104). -/
theorem passOf_eq_emit {b rest : List Byte} {m : Message} :
    passOf b = .emit m rest ↔
      settled b = false ∧ decodeFrame (candidate b) = .ok m ∧ rest = b.drop (declaredLength b) := by
  unfold passOf settled
  split
  · simp_all
  · split
    · simp_all
    · split
      · rename_i m' hd
        simp only [Pass.emit.injEq, hd, Except.ok.injEq, bufDrop_eq, Bool.or_eq_false_iff]
        simp_all only [Bool.not_eq_true, true_and]
        exact ⟨fun h => ⟨h.1, h.2.symm⟩, fun h => ⟨h.1, h.2.symm⟩⟩
      · simp_all

/-- A pass that drops: the candidate does not decode (41_framebuffer.md R105). -/
theorem passOf_eq_drop {b rest : List Byte} :
    passOf b = .drop rest ↔
      settled b = false ∧ (∃ e, decodeFrame (candidate b) = .error e) ∧ rest = b.drop 1 := by
  unfold passOf settled
  split
  · simp_all
  · split
    · simp_all
    · split
      · simp_all
      · rename_i e hd
        simp only [Pass.drop.injEq, hd, Except.error.injEq, exists_eq', bufDrop_eq, Config.resyncSkip,
          Bool.or_eq_false_iff]
        simp_all only [Bool.not_eq_true, true_and]
        exact ⟨Eq.symm, Eq.symm⟩

/-- A pass that stops: the buffer meets the stop condition (41_framebuffer.md R108). -/
theorem passOf_stops {b : List Byte} : (passOf b = .short ∨ passOf b = .wait) ↔ settled b = true := by
  unfold passOf settled
  split
  · simp_all
  · split
    · simp_all
    · split <;> simp_all

/-- A buffer that does not stop the loop holds the whole declared frame (30_encoding.md R75). -/
theorem declaredLength_le {b : List Byte} (h : settled b = false) : 5 ≤ b.length ∧ declaredLength b ≤ b.length := by
  simp only [settled, tooShort, incomplete, Bool.or_eq_false_iff, decide_eq_false_iff_not] at h
  simp only [Config.probeMin] at h
  simp only [declaredLength]
  omega

/-- A pass that goes on leaves a shorter buffer (41_framebuffer.md R106). -/
theorem passOf_shrinks {b rest : List Byte} (h : (∃ m, passOf b = .emit m rest) ∨ passOf b = .drop rest) :
    rest.length < b.length := by
  obtain ⟨m, h⟩ | h := h
  · obtain ⟨hb, -, rfl⟩ := passOf_eq_emit.mp h
    have := declaredLength_le hb
    simp only [List.length_drop, declaredLength]
    omega
  · obtain ⟨hb, -, rfl⟩ := passOf_eq_drop.mp h
    have := declaredLength_le hb
    simp only [List.length_drop]
    omega

/-- More passes than bytes change nothing (41_framebuffer.md R106). -/
theorem extractLoop_enough {n : Nat} {b : List Byte} (h : b.length ≤ n) : extractLoop n b = extractAll b := by
  suffices key : ∀ n k b, b.length ≤ n → b.length ≤ k → extractLoop n b = extractLoop k b from key n _ b h le_rfl
  intro n
  induction n with
  | zero =>
    intro k b hn _
    have : b = [] := List.length_eq_zero_iff.mp (by omega)
    subst this
    cases k <;> rfl
  | succ n ih =>
    intro k b hn hk
    cases k with
    | zero =>
      have : b = [] := List.length_eq_zero_iff.mp (by omega)
      subst this
      rfl
    | succ k =>
      simp only [extractLoop]
      split
      · rfl
      · rfl
      · rename_i m rest hp
        have := passOf_shrinks (.inl ⟨m, hp⟩)
        rw [ih k rest (by omega) (by omega)]
      · rename_i rest hp
        have := passOf_shrinks (.inr hp)
        rw [ih k rest (by omega) (by omega)]

end Sys2Proof.Machine
end

