-- ==== Sys2Proof/Laws/Exec.lean ====
section
/-! SUPPORT. Everything an operation can do to the readers, said once for all rows. -/

namespace Sys2Proof.Machine

/-- What an operation leaves of the readers: nothing changed, a reader appended by START, or one existing reader written.
A reader that goes was STOPped; one that stays keeps mode, listener and name unless it was CONFIGUREd, and its buffer is
the old one or one on which the extractor stops. -/
theorem exec_readers {i : Instr} {s t : State} (h : exec i s = .next t) :
    t.slots = s.slots ∨
    (∃ o, i = .start o ∧ t.slots = s.slots ++ [⟨some (startedReader o), [], []⟩]) ∨
    ∃ r slot a x, s.slots[r]? = some slot ∧ slot.reader = some a ∧ t.slots = s.slots.set r x ∧
      ((i = .stop r ∧ x.reader = none) ∨
        ∃ a', x.reader = some a' ∧
          ((∃ o, i = .configure r o) ∨ (a'.mode = a.mode ∧ a'.listener = a.listener ∧ a'.name = a.name)) ∧
          (a'.buffer = a.buffer ∨ settled a'.buffer = true ∨ ∃ b, a'.buffer = (extractAll b).2)) := by
  cases i with
  | start o => cases h; exact .inr (.inl ⟨o, rfl, rfl⟩)
  | stop r =>
    obtain ⟨slot, a, hs, ha, h⟩ := onReader_next h
    split at h <;> cases h
    exact .inr (.inr ⟨r, slot, a, _, hs, ha, rfl, .inl ⟨rfl, rfl⟩⟩)
  | ingest r bytes =>
    obtain ⟨slot, a, hs, ha, h⟩ := onReader_next h
    cases h
    obtain ⟨q, hq⟩ := deliver_reader slot (a.absorb bytes)
    exact .inr (.inr ⟨r, slot, a, _, hs, ha, rfl, .inr ⟨_, hq, .inr ⟨rfl, rfl, rfl⟩, .inr (.inr ⟨_, rfl⟩)⟩⟩)
  | drain r =>
    obtain ⟨slot, a, hs, ha, h⟩ := onReader_next h
    split at h <;> cases h
    · exact .inr (.inr ⟨r, slot, a, _, hs, ha, rfl, .inr ⟨_, rfl, .inr ⟨rfl, rfl, rfl⟩, .inl rfl⟩⟩)
    · exact .inr (.inr ⟨r, slot, a, _, hs, ha, rfl, .inr ⟨_, ha, .inr ⟨rfl, rfl, rfl⟩, .inl rfl⟩⟩)
  | configure r o =>
    obtain ⟨slot, a, hs, ha, h⟩ := onReader_next h
    split at h <;> cases h
    refine .inr (.inr ⟨r, slot, a, _, hs, ha, rfl, .inr ?_⟩)
    unfold Slot.configure
    split <;> exact ⟨_, rfl, .inl ⟨o, rfl⟩, .inl rfl⟩
  | encode src dst p =>
    simp only [exec, execEncode] at h
    split at h <;> cases h
    exact .inl rfl
  | xShort =>
    simp only [exec, execXShort, withExtraction] at h
    split at h <;> try cases h
    rename_i owner b ms _
    split at h <;> try cases h
    rename_i hp
    cases owner with
    | none => cases h; exact .inl rfl
    | some r =>
      obtain ⟨slot, a, hs, ha, h⟩ := onReader_next h
      cases h
      exact .inr (.inr ⟨r, slot, a, _, hs, ha, rfl,
        .inr ⟨_, rfl, .inr ⟨rfl, rfl, rfl⟩, .inr (.inl (passOf_stops.mp (.inl hp)))⟩⟩)
  | xWait =>
    simp only [exec, execXWait, withExtraction] at h
    split at h <;> try cases h
    rename_i owner b ms _
    split at h <;> try cases h
    rename_i hp
    cases owner with
    | none => cases h; exact .inl rfl
    | some r =>
      obtain ⟨slot, a, hs, ha, h⟩ := onReader_next h
      cases h
      exact .inr (.inr ⟨r, slot, a, _, hs, ha, rfl,
        .inr ⟨_, rfl, .inr ⟨rfl, rfl, rfl⟩, .inr (.inl (passOf_stops.mp (.inr hp)))⟩⟩)
  | xEmit =>
    simp only [exec, execXEmit, withExtraction] at h
    split at h <;> try cases h
    split at h <;> cases h
    exact .inl rfl
  | xDrop =>
    simp only [exec, execXDrop, withExtraction] at h
    split at h <;> try cases h
    split at h <;> cases h
    exact .inl rfl
  | deliver r =>
    obtain ⟨slot, a, hs, ha, h⟩ := onReader_next h
    cases h
    obtain ⟨q, hq⟩ := deliver_reader slot a
    exact .inr (.inr ⟨r, slot, a, _, hs, ha, rfl, .inr ⟨_, hq, .inr ⟨rfl, rfl, rfl⟩, .inl rfl⟩⟩)
  | notify r =>
    obtain ⟨slot, a, hs, ha, h⟩ := onReader_next h
    split at h <;> cases h
    · exact .inr (.inr ⟨r, slot, a, _, hs, ha, rfl, .inr ⟨_, rfl, .inr ⟨rfl, rfl, rfl⟩, .inl rfl⟩⟩)
    · exact .inl rfl
    · exact .inl rfl
  | checksum => cases h; exact .inl rfl
  | decode => cases h; exact .inl rfl
  | isvalid => cases h; exact .inl rfl
  | append => cases h; exact .inl rfl
  | extractall => cases h; exact .inl rfl
  | frame => cases h; exact .inl rfl
  | unassigned0101 => cases h
  | unassigned0110 => cases h
  | unassigned0111 => cases h
  | unassigned1110 => cases h
  | unassigned1111 => cases h

end Sys2Proof.Machine
end

