-- ==== Sys2Proof/Laws/PerInstr.lean ====
section
/-! SUPPORT. Per instruction: the first byte of a command is its select code (30_encoding.md R72). -/

namespace Sys2Proof.Laws.SelectCode

/-- A row with a select code has bytes, and the first of them is that code. -/
def Statement (i : Instr) : Prop :=
  ∀ op, i.selectCode = some op → ∃ bytes, Sys2Proof.encode i = some bytes ∧ bytes.head? = some (op.zeroExtend 8)

/-- The bytes of a row with a select code. -/
theorem of_selectCode (i : Instr) : Statement i := fun op h =>
  ⟨op.zeroExtend 8 :: i.operandBytes, by rw [Sys2Proof.encode, h]; rfl, rfl⟩

theorem start (o : Options) : Statement (.start o) := of_selectCode _
theorem stop (r : ReaderId) : Statement (.stop r) := of_selectCode _
theorem ingest (r : ReaderId) (x : List Byte) : Statement (.ingest r x) := of_selectCode _
theorem drain (r : ReaderId) : Statement (.drain r) := of_selectCode _
theorem configure (r : ReaderId) (o : Options) : Statement (.configure r o) := of_selectCode _
theorem checksum (x : List Byte) : Statement (.checksum x) := of_selectCode _
theorem encode (a b : Byte) (x : List Byte) : Statement (.encode a b x) := of_selectCode _
theorem decode (f : List Byte) : Statement (.decode f) := of_selectCode _
theorem isvalid (f : List Byte) : Statement (.isvalid f) := of_selectCode _
theorem append (b x : List Byte) : Statement (.append b x) := of_selectCode _
theorem extractall (b : List Byte) : Statement (.extractall b) := of_selectCode _
theorem unassigned0101 : Statement .unassigned0101 := of_selectCode _
theorem unassigned0110 : Statement .unassigned0110 := of_selectCode _
theorem unassigned0111 : Statement .unassigned0111 := of_selectCode _
theorem unassigned1110 : Statement .unassigned1110 := of_selectCode _
theorem unassigned1111 : Statement .unassigned1111 := of_selectCode _
theorem xShort : Statement .xShort := of_selectCode _
theorem xWait : Statement .xWait := of_selectCode _
theorem xEmit : Statement .xEmit := of_selectCode _
theorem xDrop : Statement .xDrop := of_selectCode _
theorem frame (a b c : Byte) (p : List Byte) (k : Byte) : Statement (.frame a b c p k) := of_selectCode _
theorem deliver (r : ReaderId) : Statement (.deliver r) := of_selectCode _
theorem notify (r : ReaderId) : Statement (.notify r) := of_selectCode _

end Sys2Proof.Laws.SelectCode
end

