-- ==== Sys2Proof/Laws/Step.lean ====
section
/-! SUPPORT. What a step runs, and a run by steps. -/

namespace Sys2Proof.Machine

/-- With an operation in progress a step runs its internal step. -/
theorem step_internal {s : State} {i : Instr} (h : s.internalInstr = some i) : step s = exec i s := by
  simp [step, h]

/-- Between operations a step moves on. -/
theorem step_idle {s : State} (h : s.activity = .idle) : step s = moveOn s := by
  simp [step, State.internalInstr, h]

/-- No reader has operations waiting when every mailbox is empty. -/
theorem pendingReader?_none {s : State} (h : s.NothingWaits) : s.pendingReader? = none := by
  rw [State.pendingReader?, List.findIdx?_eq_none_iff]
  intro slot hs
  unfold Slot.pending
  split
  · rename_i a ha
    simp [h slot hs a ha]
  · rfl

/-- The next command of the port is handed on. -/
theorem takeCommand_ok {s : State} {i : Instr} {rest : List Byte} (k : Instr → State → Result)
    (h : decode s.port = .ok (i, rest)) : takeCommand s k = k i { s with port := rest } := by
  unfold takeCommand
  cases hp : s.port with
  | nil => rw [hp] at h; cases h
  | cons c bs => rw [hp] at h; simp only [h]

/-- A whole operation is its meaning. -/
theorem perform_whole {s : State} (i : Instr) (h : s.grain = .whole) : perform i s = exec i s := by
  simp [perform, h]

/-- An operation without passes is its meaning at either grain. -/
theorem perform_noPasses {s : State} {i : Instr} (h : ¬ HasPasses i) : perform i s = exec i s := by
  unfold perform
  split
  · exact absurd (.inl ⟨_, _, rfl⟩) h
  · exact absurd (.inr ⟨_, rfl⟩) h
  · rfl

/-- Whole, or without passes: the operation is its meaning. -/
theorem perform_atOnce {s : State} {i : Instr} (h : s.grain = .whole ∨ ¬ HasPasses i) : perform i s = exec i s :=
  h.elim (perform_whole i) perform_noPasses

/-- Pass by pass an EXTRACTALL enters its loop. -/
theorem perform_pass_extractall {s : State} (b : List Byte) (h : s.grain = .pass) :
    perform (.extractall b) s = .next (s.beginExtraction none b) := by
  simp [perform, h]

/-- Pass by pass an INGEST enters its loop. -/
theorem perform_pass_ingest {s : State} (r : ReaderId) (bytes : List Byte) (h : s.grain = .pass) :
    perform (.ingest r bytes) s = beginIngest r bytes s := by
  simp [perform, h]

/-- A reader with an operation waiting performs the oldest. -/
theorem processHead_live {s : State} {r : ReaderId} {slot : Slot} {reader : Reader} {q : Request} {qs : List Request}
    (h : s.Live r slot reader) (hq : reader.mailbox = q :: qs) :
    processHead r s = perform (q.toInstr r) (s.putSlot r (slot.putReader { reader with mailbox := qs })) := by
  simp [processHead, h.1, h.2, hq]

/-- A reader with nothing waiting, or none at all, has nothing to process. -/
theorem processHead_idle {s : State} {r : ReaderId} (h : ∀ reader, s.reader? r = some reader → reader.mailbox = []) :
    processHead r s = .next s := by
  unfold processHead
  split
  · rfl
  · rename_i slot hs
    split
    · rfl
    · rename_i reader ha
      rw [h reader (reader?_eq_some.mpr ⟨slot, hs, ha⟩)]

/-- A request is issued into its reader's mailbox. -/
theorem issue_toInstr (q : Request) (r : ReaderId) (s : State) : issue (q.toInstr r) s = post r q s := by
  cases q <;> rfl

/-- A command that enters no mailbox is performed when it is issued. -/
theorem issue_noMailbox {i : Instr} (s : State) (h : ¬ EntersMailbox i) : issue i s = perform i s := by
  cases i
  case ingest r bytes => exact absurd (.inl ⟨_, _, rfl⟩) h
  case drain r => exact absurd (.inr (.inl ⟨_, rfl⟩)) h
  case configure r o => exact absurd (.inr (.inr ⟨_, _, rfl⟩)) h
  all_goals rfl

/-- The first reader with an operation waiting is the one before which none waits. -/
theorem pendingReader?_first {s : State} {r : ReaderId} {slot : Slot} {reader : Reader} (h : s.Live r slot reader)
    (hq : reader.mailbox ≠ []) (before : ∀ r' < r, ∀ reader', s.reader? r' = some reader' → reader'.mailbox = []) :
    s.pendingReader? = some r := by
  obtain ⟨hlt, hr⟩ := List.getElem?_eq_some_iff.mp h.1
  rw [State.pendingReader?, List.findIdx?_eq_some_iff_getElem]
  refine ⟨hlt, ?_, fun j hj => ?_⟩
  · simp [hr, Slot.pending, h.2, hq]
  · unfold Slot.pending
    split
    · rename_i a ha
      simp [before j hj a (reader?_eq_some.mpr ⟨_, List.getElem?_eq_getElem (hj.trans hlt), ha⟩)]
    · simp

/-- A run of any machine by its first step. -/
theorem run_succ (M : Host.Core) (n : Nat) (s : M.State) :
    M.run (n + 1) s =
      match M.step s with
      | .next s' => M.run n s'
      | .fault r => .fault r
      | .refused r => .refused r :=
  rfl

/-- A run of this machine goes on from the next state. -/
theorem run_next {s t : State} (n : Nat) (h : step s = .next t) : core.run (n + 1) s = core.run n t := by
  have hc : core.step s = .next t := h
  have hr := run_succ core n s
  rw [hc] at hr
  exact hr

end Sys2Proof.Machine
end

