-- ==== Sys2Proof/Tests/Slice0.lean ====
section
/-! SUPPORT. Tests: decodings written out from the spec's encodings, vectors of 95_test_vectors.md, ill-formed operands,
and a witness for the hypotheses of every statement. -/

namespace Sys2Proof.Tests

open Sys2Proof Sys2Proof.Machine

/-! ### Sample data: the frames and messages of 95_test_vectors.md -/

def f1 : List Byte := [0x68#8, 0x04#8, 0x18#8, 0x0A#8, 0x00#8, 0x7E#8]
def f2 : List Byte := [0x80#8, 0x05#8, 0xBF#8, 0x11#8, 0x22#8, 0x33#8, 0x3A#8]
def f4 : List Byte := [0x3F#8, 0x02#8, 0xD0#8, 0xED#8]
def f6 : List Byte := [0x10#8, 0x03#8, 0x20#8, 0x30#8, 0x03#8]
def m1 : Message := ⟨0x68#8, 0x18#8, [0x0A#8, 0x00#8], by decide⟩
def m2 : Message := ⟨0x80#8, 0xBF#8, [0x11#8, 0x22#8, 0x33#8], by decide⟩
def m4 : Message := ⟨0x3F#8, 0xD0#8, [], by decide⟩
def m6 : Message := ⟨0x10#8, 0x20#8, [0x30#8], by decide⟩
def zeros (n : Nat) : List Byte := List.replicate n 0#8
theorem zeros_length (n : Nat) : (zeros n).length = n := List.length_replicate

def nameA : Name := ⟨[0x41#8]⟩
def nameB : Name := ⟨[0x42#8]⟩
def listenerL : Listener := ⟨[0x4C#8]⟩

/-- A reader named `A` with this configuration and these contents. -/
def readerOf (mode : Mode) (l : Option Listener) (buffer : List Byte) (queue : List Message) : Reader :=
  ⟨buffer, queue, mode, l, nameA, []⟩

/-- A machine with these readers, between operations. -/
def machineOf (readers : List (Option Reader)) : State :=
  { slots := readers.map fun x => ⟨x, [], []⟩, answers := [], activity := .idle, port := [], turns := [], grain := .whole }

def passive1 : State := machineOf [some (readerOf .passive none [] [])]
def active1 : State := machineOf [some (readerOf .active (some listenerL) [] [m1])]
def lonely1 : State := machineOf [some (readerOf .active none [] [m1])]

/-- The reader at address 0 after an outcome. -/
def readerAfter (x : Result) : Option Reader :=
  match x with
  | .next t => t.reader? 0
  | .fault _ => none
  | .refused _ => none

/-- The replies and the trace's messages at address 0 after an outcome. -/
def shownAfter (x : Result) : List Reply × List Message :=
  match x with
  | .next t => ((t.slots[0]?.map Slot.replies).getD [], ((t.slots[0]?.map Slot.trace).getD []).map Notification.message)
  | .fault _ => ([], [])
  | .refused _ => ([], [])

/-- The answers after an outcome. -/
def answersAfter (x : Result) : List Answer :=
  match x with
  | .next t => t.answers
  | .fault _ => []
  | .refused _ => []

/-- Why an outcome is refused. -/
def refusedWith (x : Result) : Option Refusal :=
  match x with
  | .next _ => none
  | .fault _ => none
  | .refused r => some r

/-- The activity after an outcome. -/
def activityAfter (x : Result) : Option Activity :=
  match x with
  | .next t => some t.activity
  | .fault _ => none
  | .refused _ => none

/-! ### Decoding: select codes of 30_encoding.md R72 in bits 3:0, operand bytes as log 1 lays them out -/

theorem test_decode_start : decode [0x00#8, 1#8, 1#8, 1#8, 1#8, 1#8, 0x4C#8, 0#8, 1#8, 1#8, 0x41#8, 0#8] =
    .ok (.start ⟨some true, some (some listenerL), some nameA⟩, []) := by decide
theorem test_decode_stop : decode [0x01#8, 1#8, 0#8] = .ok (.stop 1, []) := by decide
theorem test_decode_ingest : decode [0x02#8, 0#8, 1#8, 0xFF#8, 1#8, 0x00#8, 0#8, 0x03#8] =
    .ok (.ingest 0 [0xFF#8, 0x00#8], [0x03#8]) := by decide
theorem test_decode_drain : decode [0x03#8, 1#8, 1#8, 0#8] = .ok (.drain 2, []) := by decide
theorem test_decode_configure : decode [0x04#8, 0#8, 0#8, 1#8, 0#8, 1#8, 1#8, 0x4C#8, 0#8, 0#8, 1#8, 0x42#8, 0#8] =
    .ok (.configure 0 ⟨some true, some (some listenerL), some nameB⟩, []) := by decide
theorem test_decode_checksum : decode [0x08#8, 1#8, 0x7E#8, 0#8] = .ok (.checksum [0x7E#8], []) := by decide
theorem test_decode_encode : decode [0x09#8, 0x68#8, 0x18#8, 1#8, 0x0A#8, 1#8, 0x00#8, 0#8] =
    .ok (.encode 0x68#8 0x18#8 [0x0A#8, 0x00#8], []) := by decide
theorem test_decode_decode : decode [0x0A#8, 1#8, 0x00#8, 0#8] = .ok (.decode [0x00#8], []) := by decide
theorem test_decode_isvalid : decode [0x0B#8, 1#8, 0x01#8, 0#8] = .ok (.isvalid [0x01#8], []) := by decide
theorem test_decode_append : decode [0x0C#8, 1#8, 0x68#8, 0#8, 1#8, 0x04#8, 0#8] =
    .ok (.append [0x68#8] [0x04#8], []) := by decide
theorem test_decode_extractall : decode [0x0D#8, 1#8, 0x3F#8, 0#8] = .ok (.extractall [0x3F#8], []) := by decide
theorem test_decode_unassigned : decode [0x05#8] = .ok (.unassigned0101, []) ∧ decode [0x06#8] = .ok (.unassigned0110, []) ∧
    decode [0x07#8] = .ok (.unassigned0111, []) ∧ decode [0x0E#8] = .ok (.unassigned1110, []) ∧
    decode [0x0F#8] = .ok (.unassigned1111, []) := by decide
/-- The frame of DOC0 §8 scenario 1 (S1), its five fields by the layout of 30_encoding.md R60. -/
theorem test_decode_frame : decodeWire f1 =
    .ok (.frame 0x68#8 0x04#8 0x18#8 [0x0A#8, 0x00#8] 0x7E#8) := by decide
/-- The internal steps have no select code (spec/opcode_table.json: "none: not selected by a code"). -/
theorem test_internal_rows_have_no_code : encode .xShort = none ∧ encode .xWait = none ∧ encode .xEmit = none ∧
    encode .xDrop = none ∧ encode (.deliver 0) = none ∧ encode (.notify 0) = none := by decide
theorem test_reject_wide_select : decode [0x10#8] = .error .selectTooWide := by decide
theorem test_reject_bad_flag : decode [0x01#8, 2#8] = .error .badFlag := by decide
theorem test_reject_truncated : decode [0x02#8, 0#8, 1#8] = .error .truncated := by decide
theorem test_reject_no_frame : decodeWire [0x00#8, 0x00#8] = .error .invalidFrame := by decide

/-- Every select code that names an operation runs as the first command after reset, operand bytes zero. -/
theorem test_first_command_runs : ∀ w ∈ [0, 1, 2, 3, 4, 8, 9, 10, 11, 12, 13],
    refusedWith (step (State.reset.withFetchWord 8 w)) = none := by decide

/-! ### WellFormed refuses an ill-formed term for each of its checks -/

theorem test_illformed_encode : (Instr.encode 0#8 0#8 (zeros 254)).wellFormed = false := by
  rw [Instr.wellFormed, payloadFits, zeros_length]
  decide
theorem test_illformed_configure : (Instr.configure 0 ⟨none, some none, some nameA⟩).wellFormed = false ∧
    (Instr.configure 0 ⟨some true, none, some nameA⟩).wellFormed = false ∧
    (Instr.configure 0 ⟨some true, some none, none⟩).wellFormed = false := by decide
theorem test_illformed_frame_length : (Instr.frame 0x68#8 0x05#8 0x18#8 [0x0A#8, 0x00#8] 0x7E#8).wellFormed = false := by
  decide
theorem test_illformed_frame_checksum : (Instr.frame 0x68#8 0x04#8 0x18#8 [0x0A#8, 0x00#8] 0x7F#8).wellFormed = false := by
  decide

/-! ### Vectors of 95_test_vectors.md -/

/-- CK4, CK6. -/
theorem test_checksum : answersAfter (exec (.checksum [0x68#8, 0x04#8, 0x18#8, 0x0A#8, 0x00#8]) passive1) = [.byte 0x7E#8] ∧
    answersAfter (exec (.checksum [1#8, 2#8, 4#8, 8#8, 16#8, 32#8, 64#8, 128#8]) passive1) = [.byte 0xFF#8] := by decide
/-- EN5. -/
theorem test_encode : answersAfter (exec (.encode 0x80#8 0xBF#8 [0x11#8, 0x22#8, 0x33#8]) passive1) = [.bytes f2] := by decide
/-- EN9. -/
theorem test_encode_refused : refusedWith (exec (.encode 0#8 0#8 (zeros 254)) passive1) = some .notAMessage := by
  have h : ¬ (zeros 254).length ≤ Config.maxPayload := by
    rw [zeros_length]
    decide
  rw [exec, execEncode, messageOperand, dif_neg h]
  rfl
/-- D1v, D9v. -/
theorem test_decode : answersAfter (exec (.decode f1) passive1) = [.message m1] ∧
    answersAfter (exec (.decode [0x05#8, 0x01#8, 0x04#8]) passive1) = [.error .invalidFrame] := by decide
/-- D4v, D14v. -/
theorem test_isvalid : answersAfter (exec (.isvalid [0x68#8, 0x04#8, 0x18#8, 0x0A#8, 0x7E#8]) passive1) = [.bool false] ∧
    answersAfter (exec (.isvalid [0x68#8, 0x04#8, 0x18#8, 0x0B#8, 0x01#8, 0x7E#8]) passive1) = [.bool true] := by decide
/-- D2v as fields. -/
theorem test_frame : answersAfter (exec (.frame 0x68#8 0x04#8 0x18#8 [0x0A#8, 0x00#8] 0x7F#8) passive1) =
    [.error .invalidFrame] := by decide
/-- The example of 41_framebuffer.md R100. -/
theorem test_append : answersAfter (exec (.append [0x68#8, 0x04#8, 0x18#8] [0x0A#8, 0x00#8, 0x7E#8]) passive1) =
    [.bytes f1] := by decide
/-- X5 and S3. -/
theorem test_extractall_resync : extractAll [0xFF#8, 0x03#8, 0x04#8, 0x18#8, 0x0A#8, 0x00#8, 0x15#8] =
    ([⟨0x03#8, 0x18#8, [0x0A#8, 0x00#8], by decide⟩], []) ∧ extractAll (0xFF#8 :: f1) = ([], 0xFF#8 :: f1) := by decide
/-- X7 (false synchronisation), X10 (V4 inside the extractor). -/
theorem test_extractall_false_sync : extractAll [0x00#8, 0x05#8, 0x04#8, 0x18#8, 0x0A#8, 0x00#8, 0x13#8] =
    ([⟨0x00#8, 0x04#8, [0x18#8, 0x0A#8, 0x00#8], by decide⟩], []) ∧
    extractAll [0x00#8, 0x00#8, 0x01#8, 0x02#8, 0x03#8] = ([], [0x00#8, 0x01#8, 0x02#8, 0x03#8]) := by decide
/-- X3. -/
theorem test_xShort : answersAfter (exec .xShort (passive1.beginExtraction none f4)) = [.extraction [] f4] := by decide
/-- X20. -/
theorem test_xWait : answersAfter (exec .xWait (passive1.beginExtraction none (f1.take 5))) =
    [.extraction [] (f1.take 5)] := by decide
/-- X4. -/
theorem test_xEmit : activityAfter (exec .xEmit (passive1.beginExtraction none (f4 ++ [0x68#8]))) =
    some (.extracting none [0x68#8] [m4]) := by decide
/-- X8. -/
theorem test_xDrop : activityAfter (exec .xDrop (passive1.beginExtraction none (zeros 5))) =
    some (.extracting none (zeros 4) []) := by decide
/-- S3: the wait is no X_SHORT. -/
theorem test_xShort_not_selected : refusedWith (exec .xShort (passive1.beginExtraction none (0xFF#8 :: f1))) =
    some .stepNotSelected := by decide
/-- RD1. -/
theorem test_ingest_passive : readerAfter (exec (.ingest 0 f1) passive1) = some (readerOf .passive none [] [m1]) := by decide
/-- RD4 with a queued Message in front: the trace lists old, then new. -/
theorem test_ingest_active : shownAfter (exec (.ingest 0 f2) active1) = ([], [m1, m2]) ∧
    readerAfter (exec (.ingest 0 f2) active1) = some (readerOf .active (some listenerL) [] []) := by decide
/-- RD6 continued: active without a listener accumulates. -/
theorem test_ingest_lonely : readerAfter (exec (.ingest 0 f2) lonely1) = some (readerOf .active none [] [m1, m2]) := by decide
/-- RD2 and RD14: the buffer is not touched. -/
theorem test_drain_passive :
    shownAfter (exec (.drain 0) (machineOf [some (readerOf .passive none [0x68#8] [m1])])) = ([.drained [m1]], []) ∧
    readerAfter (exec (.drain 0) (machineOf [some (readerOf .passive none [0x68#8] [m1])])) =
      some (readerOf .passive none [0x68#8] []) := by decide
/-- RD7. -/
theorem test_drain_active : shownAfter (exec (.drain 0) lonely1) = ([.drained []], []) ∧
    readerAfter (exec (.drain 0) lonely1) = some (readerOf .active none [] [m1]) := by decide
/-- RD9: mode and listener are kept, the name is applied. -/
theorem test_configure_error : shownAfter (exec (.configure 0 ⟨some true, some none, some nameB⟩) active1) =
      ([.error .configurationError], []) ∧
    readerAfter (exec (.configure 0 ⟨some true, some none, some nameB⟩) active1) =
      some { readerOf .active (some listenerL) [] [m1] with name := nameB } := by decide
/-- RD10: no delivery runs. -/
theorem test_configure_ok : shownAfter (exec (.configure 0 ⟨some true, some (some listenerL), some nameB⟩) lonely1) =
    ([.ok], []) := by decide
/-- Program D step 1: START with active and no listener. -/
theorem test_start_unvalidated : (match exec (.start ⟨some true, none, some nameB⟩) passive1 with
    | .next t => t.reader? 1
    | .fault _ => none
    | .refused _ => none) = some ⟨[], [], .active, none, nameB, []⟩ := by decide
/-- Program D step 7. -/
theorem test_stop : readerAfter (exec (.stop 0) active1) = none ∧ refusedWith (exec (.stop 0) active1) = none := by decide
theorem test_deliver : shownAfter (exec (.deliver 0) active1) = ([], [m1]) := by decide
/-- Nothing is pushed in passive mode (RD8). -/
theorem test_notify_passive : shownAfter (exec (.notify 0)
    (machineOf [some (readerOf .passive (some listenerL) [] [m1])])) = ([], []) := by decide
theorem test_notify_oldest : shownAfter (exec (.notify 0)
    (machineOf [some (readerOf .active (some listenerL) [] [m1, m2])])) = ([], [m1]) := by decide
theorem test_unassigned : refusedWith (exec .unassigned1110 passive1) = some (.unassignedCode 0b1110#4) := by decide

/-! ### Witnesses: for every statement with hypotheses, a state and operands that meet them, per clause -/

def mailed (q : List Request) : State :=
  machineOf [some { readerOf .passive none [] [] with mailbox := q }]
def live0 (a : Reader) : Prop := (machineOf [some a]).Live 0 ⟨some a, [], []⟩ a

theorem live0_intro (a : Reader) : live0 a := ⟨rfl, rfl⟩

theorem witness_StopEndsTheReaderForGood :
    (mailed [.ingest f1]).Live 0 ⟨some { readerOf .passive none [] [] with mailbox := [.ingest f1] }, [], []⟩
      { readerOf .passive none [] [] with mailbox := [.ingest f1] } ∧
    ∀ q ∈ [Request.ingest f1], ∃ bytes, q = .ingest bytes :=
  ⟨⟨rfl, rfl⟩, by simp⟩
theorem witness_StopWithAWaitingCallerIsRefused :
    ((mailed [.ingest f1, .drain]).reader? 0).map Reader.mailbox = some [.ingest f1, .drain] ∧
    ((mailed [.configure ⟨none, none, none⟩]).reader? 0).map Reader.mailbox = some [.configure ⟨none, none, none⟩] := by decide
theorem witness_OperationsBeforeStartAreRefused : passive1.slots.length ≤ 1 := by decide
theorem witness_NothingRevivesAStoppedReader : ∃ t, exec (.start ⟨none, none, none⟩) (machineOf [none]) = .next t ∧
    (machineOf [none]).slots[0]? = some ⟨none, [], []⟩ := ⟨_, rfl, rfl⟩
theorem witness_XorFoldSplitsAndIgnoresOrder : [1#8, 2#8].Perm [2#8, 1#8] := by decide
theorem witness_EncodeLaysTheMessageOut : (zeros 253).length ≤ 253 := (zeros_length 253).le
theorem witness_EncodeOfNoMessageIsRefused : 253 < (zeros 254).length := by
  rw [zeros_length]
  decide
theorem witness_DecodeJudges_valid : 2 ≤ f4.length ∧ f4.length = (f4.getD 1 0#8).toNat + 2 ∧
    xorFold (f4.take (f4.length - 1)) = f4.getD (f4.length - 1) 0#8 ∧ 2 ≤ (f4.getD 1 0#8).toNat := by decide
theorem witness_DecodeJudges_invalid : ∀ f ∈ [[], [0x00#8, 0x00#8], f1.take 5, [0x3F#8, 0x02#8, 0xD0#8, 0xEE#8]],
    ¬ (2 ≤ f.length ∧ f.length = (f.getD 1 0#8).toNat + 2 ∧
      xorFold (f.take (f.length - 1)) = f.getD (f.length - 1) 0#8 ∧ 2 ≤ (f.getD 1 0#8).toNat) := by decide
theorem witness_EncodeOfDecodeIsTheFrame : decodeFrame f4 = .ok m4 := by decide
theorem witness_OneChangedByteIsAlwaysDetected : isValidFrame f4 = true ∧ 3 < f4.length ∧ 0xEE#8 ≠ f4.getD 3 0#8 ∧
    1 < f4.length ∧ 0x03#8 ≠ f4.getD 1 0#8 := by decide
theorem witness_Frame_message : (0x02#8 : Byte).toNat = ([] : List Byte).length + 2 ∧
    0x02#8 = xorFold ([0x00#8, 0x02#8, 0x00#8] ++ []) := by decide
theorem witness_Frame_invalid : (0x01#8 : Byte).toNat ≠ ([] : List Byte).length + 2 ∧
    0x03#8 ≠ xorFold ([0x00#8, 0x02#8, 0x00#8] ++ []) := by decide
theorem witness_PureOperationsOnlyAnswer_encode : (Instr.encode 0#8 0#8 (zeros 253)).wellFormed = true := by
  simp only [Instr.wellFormed, payloadFits, Config.maxPayload, zeros_length, le_refl, decide_true]
theorem witness_PureOperationsOnlyAnswer : (Instr.checksum []).wellFormed = true ∧
    (Instr.append [] []).wellFormed = true := by decide
theorem witness_ExtractAll_short : f4.length < 5 := by decide
theorem witness_ExtractAll_wait : 5 ≤ (f1.take 5).length ∧ (f1.take 5).length - 2 < ((f1.take 5).getD 1 0#8).toNat := by
  decide
theorem witness_ExtractAll_emit : 5 ≤ f6.length ∧ (f6.getD 1 0#8).toNat ≤ f6.length - 2 ∧
    decodeFrame (f6.take ((f6.getD 1 0#8).toNat + 2)) = .ok m6 := by decide
theorem witness_ExtractAll_drop : 5 ≤ (zeros 5).length ∧ ((zeros 5).getD 1 0#8).toNat ≤ (zeros 5).length - 2 ∧
    decodeFrame ((zeros 5).take (((zeros 5).getD 1 0#8).toNat + 2)) = .error .invalidFrame := by decide
theorem witness_ShortPass : f4.length < 5 ∧ (passive1.beginExtraction none f4).activity = .extracting none f4 [] ∧
    (passive1.beginExtraction (some 0) f4).activity = .extracting (some 0) f4 [] ∧
    ((passive1.beginExtraction (some 0) f4).reader? 0).isSome = true := by decide
theorem witness_WaitPass : 5 ≤ (f1.take 5).length ∧ (f1.take 5).length < ((f1.take 5).getD 1 0#8).toNat + 2 ∧
    (passive1.beginExtraction none (f1.take 5)).activity = .extracting none (f1.take 5) [] ∧
    (passive1.beginExtraction (some 0) (f1.take 5)).activity = .extracting (some 0) (f1.take 5) [] ∧
    ((passive1.beginExtraction (some 0) (f1.take 5)).reader? 0).isSome = true := by decide
theorem witness_EmitPass : 5 ≤ f6.length ∧ (f6.getD 1 0#8).toNat + 2 ≤ f6.length ∧
    decodeFrame (f6.take ((f6.getD 1 0#8).toNat + 2)) = .ok m6 ∧
    (passive1.beginExtraction none f6).activity = .extracting none f6 [] := by decide
theorem witness_DropPass : 5 ≤ (zeros 5).length ∧ ((zeros 5).getD 1 0#8).toNat + 2 ≤ (zeros 5).length ∧
    decodeFrame ((zeros 5).take (((zeros 5).getD 1 0#8).toNat + 2)) = .error .invalidFrame ∧
    (passive1.beginExtraction none (zeros 5)).activity = .extracting none (zeros 5) [] := by decide
theorem witness_ExactlyOnePass_none : ∀ o b ms, passive1.activity ≠ .extracting o b ms := by
  intro o b ms h
  cases h
theorem witness_ExactlyOnePass_some : (passive1.beginExtraction (some 0) f1).activity = .extracting (some 0) f1 [] ∧
    ((passive1.beginExtraction (some 0) f1).reader? 0).isSome = true := by decide
theorem witness_RemainderIsSettledAndIdempotent : f4 = (extractAll f4).2 := by decide
theorem witness_ValidFrameAtTheHeadIsEmitted : 5 ≤ (encodeMessage m4 ++ [0x68#8]).length ∧
    5 ≤ (encodeMessage m6 ++ []).length := by decide
theorem witness_EveryMessageStoodInTheStream : m1 ∈ (extractAll f1).1 := by decide
/-- Live readers for the statements about INGEST, DELIVER, NOTIFY, DRAIN, CONFIGURE and chunking, by clause. -/
theorem witness_LiveReaders : live0 (readerOf .active (some listenerL) [] [m1]) ∧ live0 (readerOf .active none [] [m1]) ∧
    live0 (readerOf .passive (some listenerL) [] [m1]) ∧ live0 (readerOf .active (some listenerL) [] []) ∧
    live0 (readerOf .passive none [] []) :=
  ⟨live0_intro _, live0_intro _, live0_intro _, live0_intro _, live0_intro _⟩
theorem witness_Ingest_clauses : (readerOf .active (some listenerL) [] [m1]).mode = .active ∧
    (readerOf .active (some listenerL) [] [m1]).listener = some listenerL ∧
    (readerOf .passive (some listenerL) [] [m1]).mode = .passive ∧
    (readerOf .active none [] [m1]).listener = none := by decide
theorem witness_Notify_clauses : (readerOf .active (some listenerL) [] [m1]).queue = [m1] ∧
    (readerOf .active (some listenerL) [] []).queue = [] := by decide
theorem witness_Configure_clauses : (true = true ∧ (none : Option Listener) = none) ∧
    (false = false ∨ (none : Option Listener) ≠ none) ∧ (true = false ∨ some listenerL ≠ none) := by decide
theorem witness_ConfigureWithAFieldLeftOut : (⟨none, some none, some nameA⟩ : Options).active = none ∧
    (⟨some true, none, some nameA⟩ : Options).listener = none ∧
    (⟨some true, some none, none⟩ : Options).name = none := by decide
theorem witness_OnlyConfigureChangesTheConfiguration : ∃ t after, exec (.drain 0) passive1 = .next t ∧
    passive1.reader? 0 = some (readerOf .passive none [] []) ∧ t.reader? 0 = some after ∧
    ∀ o, Instr.drain 0 ≠ .configure 0 o :=
  ⟨_, _, rfl, rfl, rfl, fun _ h => by cases h⟩
theorem witness_TwoFramesInOneIngest : live0 (readerOf .passive none [] []) ∧ m6.payload ≠ [] :=
  ⟨live0_intro _, by decide⟩
theorem witness_TrailingFourByteFrame : live0 (readerOf .passive none [] [m1]) ∧ m4.payload = [] :=
  ⟨live0_intro _, by decide⟩
theorem witness_BufferStaysWithinItsBound :
    (⟨some (readerOf .passive none f4 []), [], []⟩ : Slot).settled = true ∧ [0x68#8].length ≤ 1 := by decide
theorem witness_OperationsOnOneReader : ∃ t, exec (.drain 0)
    (machineOf [some (readerOf .passive none [] []), none]) = .next t ∧ (1 : ReaderId) ≠ 0 := ⟨_, rfl, by decide⟩
theorem witness_OutcomeDependsOnTheReaderAlone : passive1.slots[0]? =
    (machineOf [some (readerOf .passive none [] []), none]).slots[0]? := by decide
theorem witness_EveryCommandIsReadBack : (Instr.start ⟨none, none, none⟩).selectCode = some 0#4 ∧
    Instr.unassigned1111.selectCode = some 15#4 := by decide
theorem witness_EveryWireFrameIsReadBack : (Instr.frame 0x3F#8 0x02#8 0xD0#8 [] 0xED#8).wellFormed = true ∧
    decodeWire f4 = .ok (.frame 0x3F#8 0x02#8 0xD0#8 [] 0xED#8) := by decide
/-- Between operations, no turn, no operation waiting, and this command in the port. -/
def ported (g : Grain) (bytes : List Byte) : State := { passive1 with port := bytes, grain := g }
/-- The same at an issue turn, with these readers. -/
def issuing (g : Grain) (bytes : List Byte) (readers : List (Option Reader)) : State :=
  { machineOf readers with port := bytes, grain := g, turns := [.issue] }
theorem witness_no_mailbox (g : Grain) (bytes : List Byte) : (ported g bytes).NothingWaits := by
  simp [State.NothingWaits, ported, passive1, machineOf, readerOf]
theorem drain_hasNoPasses (r : ReaderId) : ¬ HasPasses (.drain r) := by
  rintro (⟨_, _, h⟩ | ⟨_, h⟩) <;> cases h
theorem checksum_hasNoPasses (x : List Byte) : ¬ HasPasses (.checksum x) := by
  rintro (⟨_, _, h⟩ | ⟨_, h⟩) <;> cases h
theorem checksum_entersNoMailbox (x : List Byte) : ¬ EntersMailbox (.checksum x) := by
  rintro (⟨_, _, h⟩ | ⟨_, h⟩ | ⟨_, _, h⟩) <;> cases h
theorem witness_StepRunsTheDecodedCommand : (ported .whole [0x03#8, 0#8]).activity = .idle ∧
    (ported .whole [0x03#8, 0#8]).turns = [] ∧ (ported .whole [0x03#8, 0#8]).grain = .whole ∧
    decode (ported .whole [0x03#8, 0#8]).port = .ok (.drain 0, []) := by decide
theorem witness_StepRunsTheDecodedCommand_pass : (ported .pass [0x03#8, 0#8]).activity = .idle ∧
    (ported .pass [0x03#8, 0#8]).turns = [] ∧ (ported .pass [0x03#8, 0#8]).grain = .pass ∧
    decode (ported .pass [0x03#8, 0#8]).port = .ok (.drain 0, []) ∧ ¬ HasPasses (.drain 0) :=
  ⟨rfl, rfl, rfl, by decide, drain_hasNoPasses 0⟩
theorem witness_BytesThatAreNoCommand : (ported .whole [0x10#8]).port ≠ [] ∧
    decode (ported .whole [0x10#8]).port = .error .selectTooWide ∧ (ported .whole [0x10#8]).turns = [] ∧
    (issuing .whole [0x10#8] []).turns = .issue :: [] ∧ (issuing .whole [0x10#8] []).port = [0x10#8] := by decide
theorem witness_IdleMachineStaysAsItIs : (ported .whole []).port = [] ∧ (ported .whole []).turns = [] ∧
    (issuing .whole [] []).turns = .issue :: [] ∧ (issuing .whole [] []).port = [] ∧
    ({ passive1 with turns := [.work 0] }).turns = .work 0 :: [] ∧
    (({ passive1 with turns := [.work 0] }).reader? 0).map Reader.mailbox = some [] := by decide
/-- A live reader, none, a stopped one. -/
theorem witness_Issued_mailbox :
    decode (issuing .pass [0x03#8, 0#8] [some (readerOf .passive none [] [])]).port = .ok (Request.drain.toInstr 0, []) ∧
    (issuing .pass [0x03#8, 0#8] [some (readerOf .passive none [] [])]).turns = .issue :: [] ∧
    (issuing .pass [0x03#8, 0#8] [some (readerOf .passive none [] [])]).reader? 0 =
      some (readerOf .passive none [] []) ∧
    (issuing .pass [0x03#8, 0#8] []).slots[0]? = none ∧
    (issuing .pass [0x03#8, 0#8] [none]).slots[0]? = some ⟨none, [], []⟩ := by decide
/-- A command that enters no mailbox, at either grain; an EXTRACTALL pass by pass. -/
theorem witness_Issued_atOnce : decode (issuing .pass [0x08#8, 0#8] []).port = .ok (.checksum [], []) ∧
    ¬ EntersMailbox (.checksum []) ∧ ¬ HasPasses (.checksum []) ∧ (issuing .whole [0x08#8, 0#8] []).grain = .whole ∧
    decode (issuing .pass [0x0D#8, 0#8] []).port = .ok (.extractall [], []) ∧
    (issuing .pass [0x0D#8, 0#8] []).grain = .pass :=
  ⟨by decide, checksum_entersNoMailbox [], checksum_hasNoPasses [], rfl, by decide, rfl⟩
/-- A DRAIN and, pass by pass, an INGEST at the head of the mailbox. -/
theorem witness_WorkProcessesTheOldestOperation : ({ mailed [.ingest f1, .drain] with turns := [.work 0] }).turns =
      .work 0 :: [] ∧
    (({ mailed [.ingest f1, .drain] with turns := [.work 0] }).reader? 0).map Reader.mailbox =
      some [.ingest f1, .drain] ∧
    ({ mailed [.ingest f1, .drain] with turns := [.work 0], grain := .pass }).grain = .pass ∧
    ({ mailed [.ingest f1, .drain] with turns := [.work 0] }).grain = .whole ∧
    (({ mailed [.drain] with turns := [.work 0], grain := .pass }).reader? 0).map Reader.mailbox = some [.drain] ∧
    ∀ bytes, Request.drain ≠ .ingest bytes :=
  ⟨rfl, by decide, rfl, rfl, by decide, fun _ h => by cases h⟩
theorem witness_WaitingOperationsAreProcessedFirst :
    ((machineOf [some (readerOf .passive none [] []), some { readerOf .passive none [] [] with mailbox := [.drain] }]).reader?
      1).map Reader.mailbox = some [.drain] ∧
    ((machineOf [some (readerOf .passive none [] []), some { readerOf .passive none [] [] with mailbox := [.drain] }]).reader?
      0).map Reader.mailbox = some [] := by decide
theorem witness_WaitingOperations_pass : ({ mailed [.ingest f1] with grain := .pass }).turns = [] ∧
    ({ mailed [.ingest f1] with grain := .pass }).grain = .pass ∧
    (({ mailed [.ingest f1] with grain := .pass }).reader? 0).map Reader.mailbox = some [.ingest f1] := by decide
theorem witness_PassGrainEntersTheLoop :
    decode (ported .pass [0x0D#8, 0#8]).port = .ok (.extractall [], []) ∧
    decode (ported .pass [0x02#8, 0#8, 0#8]).port = .ok (.ingest 0 [], []) ∧
    (ported .pass [0x02#8, 0#8, 0#8]).grain = .pass ∧
    (ported .pass [0x02#8, 0#8, 0#8]).reader? 0 = some (readerOf .passive none [] []) ∧
    ({ machineOf [] with port := [0x02#8, 0#8, 0#8], grain := .pass }).slots[0]? = none ∧
    ({ machineOf [none] with port := [0x02#8, 0#8, 0#8], grain := .pass }).slots[0]? = some ⟨none, [], []⟩ := by decide
theorem witness_PassesRefineTheWholeOperation : active1.activity = .idle ∧
    active1.reader? 0 = some (readerOf .active (some listenerL) [] [m1]) := by decide
theorem witness_OperationsInProgressNeverStop : (active1.beginExtraction (some 0) f1).activityOwned = true ∧
    (active1.beginExtraction (some 0) f1).activity = .extracting (some 0) f1 [] ∧
    (active1.beginExtraction (some 0) f1).internalInstr = some .xEmit := by decide
/-- A delivery with a Message to push, and two with none. -/
theorem witness_OperationsInProgress_delivery : ({ active1 with activity := .delivering 0 }).activityOwned = true ∧
    ({ active1 with activity := .delivering 0 }).activity = .delivering 0 ∧
    active1.reader? 0 = some (readerOf .active (some listenerL) [] [m1]) ∧
    ({ lonely1 with activity := .delivering 0 }).activityOwned = true ∧
    lonely1.reader? 0 = some (readerOf .active none [] [m1]) ∧
    ({ passive1 with activity := .delivering 0 }).activityOwned = true ∧
    passive1.reader? 0 = some (readerOf .passive none [] []) := by decide
theorem witness_EveryStepKeeps : active1.buffersSettled = true ∧ active1.activityOwned = true ∧
    ∃ t, step active1 = .next t := ⟨by decide, by decide, _, rfl⟩

end Sys2Proof.Tests
end

section
/-! SUPPORT. What an operation does to one record, and everything a step can do, said once: between operations it changes
mailboxes, port and turns, and then at most performs one operation, whole or by entering its extraction loop. -/

namespace Sys2Proof.Machine

/-- What an operation leaves at one address: the record is the same, or its reader existed and was STOPped or written
as `exec_readers` says. -/
theorem exec_slot {i : Instr} {s t : State} {r : ReaderId} {slot : Slot} (h : exec i s = .next t)
    (hslot : s.slots[r]? = some slot) :
    t.slots[r]? = some slot ∨
    ∃ a x, slot.reader = some a ∧ t.slots[r]? = some x ∧
      ((i = .stop r ∧ x.reader = none) ∨
        ∃ a', x.reader = some a' ∧
          ((∃ o, i = .configure r o) ∨ (a'.mode = a.mode ∧ a'.listener = a.listener ∧ a'.name = a.name)) ∧
          (a'.buffer = a.buffer ∨ settled a'.buffer = true ∨ ∃ b, a'.buffer = (extractAll b).2)) := by
  have hr : r < s.slots.length := (List.getElem?_eq_some_iff.mp hslot).1
  obtain ht | ⟨o, -, ht⟩ | ⟨r', slot', a, x, hslot', ha, ht, hx⟩ := exec_readers h <;> rw [ht]
  · exact .inl hslot
  · exact .inl (by rw [List.getElem?_append_left hr, hslot])
  · by_cases hrr : r' = r
    · subst hrr
      obtain rfl : slot' = slot := Option.some.inj (hslot'.symm.trans hslot)
      exact .inr ⟨a, x, ha, List.getElem?_set_self hr, hx⟩
    · exact .inl (by rw [List.getElem?_set_ne hrr, hslot])

/-- `u` differs from `s` at most in what is issued and waiting: mailboxes, port and turns (10_state.md R29). -/
structure State.SameButWaiting (s u : State) : Prop where
  readers : u.slots.map Slot.clearMailbox = s.slots.map Slot.clearMailbox
  answers : u.answers = s.answers
  activity : u.activity = s.activity
  grain : u.grain = s.grain

/-- Nothing need change. -/
theorem State.SameButWaiting.refl (s : State) : s.SameButWaiting s := ⟨rfl, rfl, rfl, rfl⟩

/-- Two changes of what waits are one. -/
theorem State.SameButWaiting.trans {s u v : State} (h : s.SameButWaiting u) (h' : u.SameButWaiting v) :
    s.SameButWaiting v :=
  ⟨h'.readers.trans h.readers, h'.answers.trans h.answers, h'.activity.trans h.activity, h'.grain.trans h.grain⟩

/-- Taking a turn and reading the port touch neither the readers nor what is in progress. -/
theorem sameButWaiting_taken (s : State) (ts : List Turn) (rest : List Byte) :
    s.SameButWaiting { s with turns := ts, port := rest } :=
  ⟨rfl, rfl, rfl, rfl⟩

/-- Writing the mailbox of a reader that exists. -/
theorem sameButWaiting_putMailbox {s : State} {r : ReaderId} {slot : Slot} {a : Reader} (h : s.Live r slot a)
    (qs : List Request) : s.SameButWaiting (s.putSlot r (slot.putReader { a with mailbox := qs })) := by
  obtain ⟨hs, ha⟩ := h
  have hx : (slot.putReader { a with mailbox := qs }).clearMailbox = slot.clearMailbox := by
    simp [Slot.clearMailbox, Slot.putReader, ha]
  refine ⟨?_, rfl, rfl, rfl⟩
  obtain ⟨hr, rfl⟩ := List.getElem?_eq_some_iff.mp hs
  rw [putSlot_slots, List.map_set, hx, ← List.map_set, List.set_getElem_self]

/-- Processing an operation is its meaning, or entry into the extraction loop for a caller or a reader that exists. -/
theorem perform_next {i : Instr} {s t : State} (h : perform i s = .next t) :
    exec i s = .next t ∨
    ∃ owner b, t = s.beginExtraction owner b ∧ ∀ r, owner = some r → ∃ slot a, s.Live r slot a := by
  unfold perform at h
  split at h
  · obtain ⟨slot, a, hs, ha, h⟩ := onReader_next h
    cases h
    exact .inr ⟨_, _, rfl, fun _ hr => Option.some.inj hr ▸ ⟨slot, a, hs, ha⟩⟩
  · cases h
    exact .inr ⟨_, _, rfl, nofun⟩
  · exact .inl h

/-- `t` comes from `s` by a change of what waits, after which at most one operation is performed. -/
def State.MovesTo (s t : State) : Prop :=
  ∃ u, s.SameButWaiting u ∧ (t = u ∨ ∃ i, perform i u = .next t)

/-- A move after a change of what waits is a move. -/
theorem State.SameButWaiting.movesTo {s u t : State} (h : s.SameButWaiting u) (h' : u.MovesTo t) : s.MovesTo t :=
  let ⟨v, hv, ht⟩ := h'
  ⟨v, h.trans hv, ht⟩

/-- A request that enters its mailbox only waits (10_state.md R29). -/
theorem post_movesTo {r : ReaderId} {q : Request} {s t : State} (h : post r q s = .next t) : s.MovesTo t := by
  obtain ⟨slot, a, hs, ha, h⟩ := onReader_next h
  cases h
  exact ⟨_, sameButWaiting_putMailbox ⟨hs, ha⟩ _, .inl rfl⟩

/-- The operation of a move may be performed with nothing changed before it. -/
theorem perform_movesTo {i : Instr} {s t : State} (h : perform i s = .next t) : s.MovesTo t :=
  ⟨s, .refl s, .inr ⟨i, h⟩⟩

/-- Issuing posts a request or performs the command. -/
theorem issue_movesTo {i : Instr} {s t : State} (h : issue i s = .next t) : s.MovesTo t := by
  unfold issue at h
  split at h
  · exact post_movesTo h
  · exact perform_movesTo h

/-- A reader takes the oldest request out of its mailbox and performs it (10_state.md R29). -/
theorem processHead_movesTo {r : ReaderId} {s t : State} (h : processHead r s = .next t) : s.MovesTo t := by
  have stays : Host.Outcome.next s = (.next t : Result) → s.MovesTo t := fun h =>
    ⟨s, .refl s, .inl (by cases h; rfl)⟩
  unfold processHead at h
  split at h
  · exact stays h
  · rename_i slot hs
    split at h
    · exact stays h
    · rename_i a ha
      split at h
      · exact stays h
      · exact (sameButWaiting_putMailbox ⟨hs, ha⟩ _).movesTo (perform_movesTo h)

/-- Reading the port moves as what the command is handed to does. -/
theorem takeCommand_movesTo {s t : State} {k : Instr → State → Result}
    (hk : ∀ i u, k i u = .next t → u.MovesTo t) (h : takeCommand s k = .next t) : s.MovesTo t := by
  unfold takeCommand at h
  split at h
  · cases h
    exact ⟨s, .refl s, .inl rfl⟩
  · split at h
    · cases h
    · exact (sameButWaiting_taken s s.turns _).movesTo (hk _ _ h)

/-- Whichever turn it is, the machine moves on by at most one operation (10_state.md R29; log 19). -/
theorem moveOn_movesTo {s t : State} (h : moveOn s = .next t) : s.MovesTo t := by
  unfold moveOn at h
  split at h
  · exact (sameButWaiting_taken s _ s.port).movesTo (takeCommand_movesTo (fun _ _ => issue_movesTo) h)
  · exact (sameButWaiting_taken s _ s.port).movesTo (processHead_movesTo h)
  · split at h
    · exact processHead_movesTo h
    · exact takeCommand_movesTo (fun _ _ => perform_movesTo) h

/-- A step is the internal step of the operation in progress, or between operations it moves on. -/
theorem step_next {s t : State} (h : step s = .next t) :
    (∃ i, s.internalInstr = some i ∧ exec i s = .next t) ∨ (s.internalInstr = none ∧ s.MovesTo t) := by
  unfold step at h
  split at h
  · exact .inl ⟨_, ‹_›, h⟩
  · exact .inr ⟨‹_›, moveOn_movesTo h⟩

/-- An issue turn hands the command of the port to `issue`. -/
theorem step_issue {s : State} {i : Instr} {ts : List Turn} {rest : List Byte} (ha : s.activity = .idle)
    (ht : s.turns = .issue :: ts) (hd : decode s.port = .ok (i, rest)) :
    step s = issue i { s with turns := ts, port := rest } := by
  rw [step_idle ha, moveOn, ht]
  exact takeCommand_ok (s := { s with turns := ts }) issue hd

end Sys2Proof.Machine
end

section
/-! SUPPORT. The stop condition of the extractor (41_framebuffer.md R108) as an invariant of every operation. -/

namespace Sys2Proof.Machine

/-- The loop ends on a buffer that meets the stop condition, given as many passes as bytes (41_framebuffer.md R106, R108). -/
theorem extractLoop_settled {n : Nat} {b : List Byte} (h : b.length ≤ n) : settled (extractLoop n b).2 = true := by
  induction n generalizing b with
  | zero => exact settled_iff.mpr (.inl (by simp only [extractLoop]; omega))
  | succ n ih =>
    simp only [extractLoop]
    split
    · exact passOf_stops.mp (.inl ‹_›)
    · exact passOf_stops.mp (.inr ‹_›)
    · rename_i m rest hp
      have := passOf_shrinks (.inl ⟨m, hp⟩)
      exact ih (by omega)
    · rename_i rest hp
      have := passOf_shrinks (.inr hp)
      exact ih (by omega)

/-- The remainder meets the stop condition (41_framebuffer.md R108). -/
theorem extractAll_settled (b : List Byte) : settled (extractAll b).2 = true := extractLoop_settled le_rfl

/-- Of a reader that exists the buffer is judged. -/
theorem slot_settled_of_reader {x : Slot} {a : Reader} (h : x.reader = some a) : x.settled = settled a.buffer := by
  simp [Slot.settled, h]

/-- A stopped reader has no buffer to judge. -/
theorem slot_settled_of_stopped {x : Slot} (h : x.reader = none) : x.settled = true := by
  simp [Slot.settled, h]

/-- The mailbox does not matter to the stop condition. -/
@[simp] theorem clearMailbox_settled (x : Slot) : x.clearMailbox.settled = x.settled := by
  cases h : x.reader <;> simp [Slot.settled, Slot.clearMailbox, h]

/-- The invariant, record by record. -/
theorem buffersSettled_iff {s : State} : s.buffersSettled = true ↔ ∀ x ∈ s.slots, x.settled = true :=
  List.all_eq_true

/-- What waits does not matter to the invariant. -/
theorem State.SameButWaiting.buffersSettled {s u : State} (h : s.SameButWaiting u) :
    u.buffersSettled = s.buffersSettled := by
  have hall : ∀ v : State, v.buffersSettled = (v.slots.map Slot.clearMailbox).all Slot.settled := fun v => by
    simp [State.buffersSettled, List.all_map, Function.comp_def]
  rw [hall u, hall s, h.readers]

/-- Every operation keeps the buffers settled: what it writes is an old buffer or one the extractor stops on. -/
theorem exec_keeps_buffersSettled {i : Instr} {s t : State} (hs : s.buffersSettled = true) (h : exec i s = .next t) :
    t.buffersSettled = true := by
  rw [buffersSettled_iff] at hs ⊢
  intro y hy
  obtain ht | ⟨o, -, ht⟩ | ⟨r, slot, a, x, hslot, ha, ht, hx⟩ := exec_readers h <;> rw [ht] at hy
  · exact hs y hy
  · obtain hy | hy := List.mem_append.mp hy
    · exact hs y hy
    · rw [List.mem_singleton.mp hy]
      rfl
  · obtain hy | rfl := List.mem_or_eq_of_mem_set hy
    · exact hs y hy
    · obtain ⟨-, hx⟩ | ⟨a', hx, -, hb⟩ := hx
      · exact slot_settled_of_stopped hx
      · rw [slot_settled_of_reader hx]
        obtain hb | hb | ⟨b, hb⟩ := hb
        · rw [hb, ← slot_settled_of_reader ha]
          exact hs slot (List.mem_of_getElem? hslot)
        · exact hb
        · rw [hb]
          exact extractAll_settled b

/-- Moving on keeps the buffers settled: entering a loop writes no buffer. -/
theorem movesTo_keeps_buffersSettled {s t : State} (hs : s.buffersSettled = true) (h : s.MovesTo t) :
    t.buffersSettled = true := by
  obtain ⟨u, hu, ht⟩ := h
  have hu : u.buffersSettled = true := hu.buffersSettled.trans hs
  obtain rfl | ⟨i, hi⟩ := ht
  · exact hu
  · obtain hi | ⟨owner, b, rfl, -⟩ := perform_next hi
    · exact exec_keeps_buffersSettled hu hi
    · exact hu

end Sys2Proof.Machine
end

section
/-! The obligations about the state: reset, invariants, and what operations leave of a reader (10_state.md). -/

namespace Sys2Proof.Machine

/-- Settles O59: the internal step is an operation, and moving on performs at most one. -/
theorem everyStepKeepsTheBuffersSettled : Obligations.EveryStepKeepsTheBuffersSettled := by
  intro s t hs h
  obtain ⟨i, -, hi⟩ | ⟨-, hm⟩ := step_next h
  · exact exec_keeps_buffersSettled hs hi
  · exact movesTo_keeps_buffersSettled hs hm

/-- Settles O6: an operation changes only the record of a reader that exists. -/
theorem nothingRevivesAStoppedReader : Obligations.NothingRevivesAStoppedReader := by
  intro i s t r slot h hslot hstopped
  obtain hsame | ⟨a, x, ha, -⟩ := exec_slot h hslot
  · exact hsame
  · rw [hstopped] at ha
    cases ha

/-- Settles O37: a reader that stays keeps its configuration under every operation but its CONFIGURE. -/
theorem onlyConfigureChangesTheConfiguration : Obligations.OnlyConfigureChangesTheConfiguration := by
  intro i s t r before after h hbefore hafter hnot
  obtain ⟨slot, hslot, hb⟩ := reader?_eq_some.mp hbefore
  obtain ⟨y, hy, hya⟩ := reader?_eq_some.mp hafter
  obtain hsame | ⟨a, x, ha, hx, hcase⟩ := exec_slot h hslot
  · obtain rfl : slot = y := Option.some.inj (hsame.symm.trans hy)
    obtain rfl : before = after := Option.some.inj (hb.symm.trans hya)
    exact ⟨rfl, rfl, rfl⟩
  · obtain rfl : a = before := Option.some.inj (ha.symm.trans hb)
    obtain rfl : x = y := Option.some.inj (hx.symm.trans hy)
    obtain ⟨-, hgone⟩ | ⟨a', ha', hcfg, -⟩ := hcase
    · rw [hgone] at hya
      cases hya
    · obtain rfl : a' = after := Option.some.inj (ha'.symm.trans hya)
      exact hcfg.resolve_left fun ⟨o, ho⟩ => hnot o ho

/-- Settles O1: the one reader is `Reader.reset`. -/
theorem resetLeavesOneStartedReader : Obligations.ResetLeavesOneStartedReader :=
  ⟨Reader.reset, rfl, rfl, rfl, rfl, rfl, rfl, rfl⟩

/-- Settles O51: at an issue turn a request is posted, any other command is performed. -/
theorem issuedOperationsEnterTheMailbox : Obligations.IssuedOperationsEnterTheMailbox := by
  intro s i ts rest hidle hturns hd
  rw [step_issue hidle hturns hd]
  refine ⟨?mailbox, ?atOnce, ?loop⟩
  case mailbox =>
    rintro r q rfl
    rw [issue_toInstr]
    exact ⟨fun _ _ ⟨hs, ha⟩ => onReader_live _ hs ha, onReader_beforeStart _, fun _ => onReader_afterStop _⟩
  case atOnce =>
    intro hmail hatOnce
    rw [issue_noMailbox _ hmail]
    exact perform_atOnce hatOnce
  case loop =>
    rintro b hpass rfl
    exact perform_pass_extractall b hpass

/-- Settles O58: the one buffer is empty. -/
theorem resetMeetsTheInvariants : Obligations.ResetMeetsTheInvariants :=
  ⟨rfl, rfl, rfl⟩

end Sys2Proof.Machine
end

section
/-! SUPPORT. Operations on one reader: whether they complete, and what they leave, depends on its record alone
(20_memory.md R53). -/

namespace Sys2Proof.Machine

/-- The reader whose operation is in progress, if one is and it is a reader's (log 20). -/
def Activity.owner : Activity → Option ReaderId
  | .idle => none
  | .extracting owner _ _ => owner
  | .delivering r => some r

@[simp] theorem owner_idle : Activity.idle.owner = none := rfl
@[simp] theorem owner_extracting (o : Option ReaderId) (b : List Byte) (ms : List Message) :
    (Activity.extracting o b ms).owner = o := rfl
@[simp] theorem owner_delivering (r : ReaderId) : (Activity.delivering r).owner = some r := rfl

/-- The operation in progress goes on for the same owner, or none is in progress any more (20_memory.md R46). -/
def Activity.Continues (before after : Activity) : Prop := after.owner = before.owner ∨ after = .idle

/-- What is in progress may stay as it is. -/
theorem Activity.Continues.refl (a : Activity) : a.Continues a := .inl rfl

/-- What goes on for a reader was that reader's before. -/
theorem Activity.Continues.owner_eq_some {before after : Activity} (h : before.Continues after) {r : ReaderId}
    (hr : after.owner = some r) : before.owner = some r := by
  obtain hsame | rfl := h
  · exact hsame.symm.trans hr
  · cases hr

/-- The end of a delivery ends the INGEST it belongs to, and touches no other operation. -/
theorem afterDelivery_continues (a : Activity) (r : ReaderId) : a.Continues (a.afterDelivery r) := by
  cases a with
  | idle => exact .refl _
  | extracting owner b ms => exact .refl _
  | delivering r' =>
    simp only [Activity.afterDelivery]
    split
    · exact .inr rfl
    · exact .refl _

/-- The operations on reader `r`, as the statements list them (42_reader.md; 70_reset_and_hazards.md R161). -/
abbrev OfReader (i : Instr) (r : ReaderId) : Prop :=
  i = .stop r ∨ i = .drain r ∨ i = .deliver r ∨ i = .notify r ∨ (∃ bytes, i = .ingest r bytes) ∨ ∃ o, i = .configure r o

/-- An operation on a reader goes on with that reader, if it exists (60_exceptions.md R154). -/
theorem ofReader_onReader {i : Instr} {r : ReaderId} (hi : OfReader i r) :
    ∃ k : State → Slot → Reader → Result, ∀ s, exec i s = onReader r s (k s) := by
  obtain rfl | rfl | rfl | rfl | ⟨bytes, rfl⟩ | ⟨o, rfl⟩ := hi <;> exact ⟨_, fun _ => rfl⟩

/-- A reader that pushes notifies its listener of the oldest Message (42_reader.md R124). -/
theorem exec_notify_push {s : State} {r : ReaderId} {slot : Slot} {a : Reader} {l : Listener} {m : Message}
    {ms : List Message} (h : s.Live r slot a) (hl : a.pushTarget = some l) (hq : a.queue = m :: ms) :
    exec (.notify r) s =
      .next (s.putSlot r ((slot.putReader { a with queue := ms }).emit [notification l a.name m])) := by
  obtain ⟨hs, ha⟩ := h
  simp [exec, execNotify, onReader_live _ hs ha, hl, hq]

/-- A reader that does not push, or has nothing to push, notifies nobody (60_exceptions.md R145). -/
theorem exec_notify_silent {s : State} {r : ReaderId} {slot : Slot} {a : Reader} (h : s.Live r slot a)
    (hn : a.pushTarget = none ∨ a.queue = []) : exec (.notify r) s = .next s := by
  obtain ⟨hs, ha⟩ := h
  simp only [exec, execNotify, onReader_live _ hs ha]
  split
  · rename_i hl hq
    obtain hn | hn := hn
    · cases hl.symm.trans hn
    · cases hq.symm.trans hn
  · rfl
  · rfl

/-- A reader is silent, or it pushes and has a Message to push. -/
theorem silent_or_push (a : Reader) :
    (a.pushTarget = none ∨ a.queue = []) ∨ ∃ l m ms, a.pushTarget = some l ∧ a.queue = m :: ms := by
  cases hl : a.pushTarget with
  | none => exact .inl (.inl rfl)
  | some l =>
    cases hq : a.queue with
    | nil => exact .inl (.inr rfl)
    | cons m ms => exact .inr ⟨l, m, ms, rfl, rfl⟩

/-- A passive reader hands over its queue (42_reader.md R122). -/
theorem exec_drain_passive {s : State} {r : ReaderId} {slot : Slot} {a : Reader} (h : s.Live r slot a)
    (hm : a.mode = .passive) :
    exec (.drain r) s =
      .next (s.putSlot r ((slot.putReader { a with queue := [] }).reply (.drained a.queue))) := by
  obtain ⟨hs, ha⟩ := h
  simp [exec, execDrain, onReader_live _ hs ha, hm]

/-- The delivery phase of a reader that exists completes (42_reader.md R121). -/
theorem exec_deliver_live {s : State} {r : ReaderId} {slot : Slot} {a : Reader} (h : s.Live r slot a) :
    exec (.deliver r) s =
      .next ({ s with activity := s.activity.afterDelivery r }.putSlot r (slot.deliver a)) :=
  onReader_live _ h.1 h.2

/-- The record written back where it stood changes nothing. -/
theorem putSlot_self {s : State} {r : ReaderId} {slot : Slot} (h : s.slots[r]? = some slot) :
    s.putSlot r slot = s := by
  obtain ⟨hr, rfl⟩ := List.getElem?_eq_some_iff.mp h
  simp [State.putSlot]

/-- An operation leaves the record `x` at address `r`, and beside it changes at most what is in progress. -/
def LeavesRecord (i : Instr) (r : ReaderId) (s : State) (x : Slot) : Prop :=
  ∃ act, s.activity.Continues act ∧ exec i s = .next ({ s with activity := act }.putSlot r x)

/-- An operation that leaves what is in progress alone. -/
theorem leavesRecord_of_putSlot {i : Instr} {r : ReaderId} {s : State} {x : Slot}
    (h : exec i s = .next (s.putSlot r x)) : LeavesRecord i r s x :=
  ⟨s.activity, .refl _, h⟩

/-- What an operation on a reader that exists leaves at its address, or why it is refused, is told by the reader's record
alone: one `x`, or one reason, for every state with that record (20_memory.md R47, R53). -/
theorem ofReader_outcome {i : Instr} {r : ReaderId} (hi : OfReader i r) {slot : Slot} {a : Reader}
    (ha : slot.reader = some a) :
    (∃ x, ∀ s : State, s.slots[r]? = some slot → LeavesRecord i r s x) ∨
    ∃ why, ∀ s : State, s.slots[r]? = some slot → exec i s = .refused why := by
  obtain rfl | rfl | rfl | rfl | ⟨bytes, rfl⟩ | ⟨o, rfl⟩ := hi
  · by_cases hw : a.mailbox.any Request.synchronous = true
    · exact .inr ⟨.callerPending, fun s hs => by simp only [exec, execStop, onReader_live _ hs ha, if_pos hw]⟩
    · exact .inl ⟨{ slot with reader := none }, fun s hs => leavesRecord_of_putSlot (by
        simp only [exec, execStop, onReader_live _ hs ha, if_neg hw])⟩
  · cases hm : a.mode with
    | passive => exact .inl ⟨_, fun s hs => leavesRecord_of_putSlot (exec_drain_passive ⟨hs, ha⟩ hm)⟩
    | active =>
      exact .inl ⟨slot.reply (.drained []), fun s hs => leavesRecord_of_putSlot (by
        simp only [exec, execDrain, onReader_live _ hs ha, hm])⟩
  · exact .inl ⟨_, fun s hs => ⟨_, afterDelivery_continues _ r, exec_deliver_live ⟨hs, ha⟩⟩⟩
  · obtain hn | ⟨l, m, ms, hl, hq⟩ := silent_or_push a
    · exact .inl ⟨slot, fun s hs => leavesRecord_of_putSlot (by
        rw [putSlot_self hs]
        exact exec_notify_silent ⟨hs, ha⟩ hn)⟩
    · exact .inl ⟨_, fun s hs => leavesRecord_of_putSlot (exec_notify_push ⟨hs, ha⟩ hl hq)⟩
  · exact .inl ⟨_, fun s hs => leavesRecord_of_putSlot (onReader_live _ hs ha)⟩
  · cases ho : fullOptions o with
    | some full =>
      exact .inl ⟨slot.configure a full, fun s hs => leavesRecord_of_putSlot (by
        simp only [exec, execConfigure, onReader_live _ hs ha, ho])⟩
    | none =>
      exact .inr ⟨.partialOptions, fun s hs => by simp only [exec, execConfigure, onReader_live _ hs ha, ho]⟩

/-- An operation on a reader that completes wrote that reader's record, and beside it at most what is in progress. -/
theorem ofReader_next {i : Instr} {r : ReaderId} (hi : OfReader i r) {s t : State} (h : exec i s = .next t) :
    ∃ act x, s.activity.Continues act ∧ t = { s with activity := act }.putSlot r x := by
  obtain ⟨k, hk⟩ := ofReader_onReader hi
  obtain ⟨slot, a, hs, ha, -⟩ := onReader_next ((hk s).symm.trans h)
  obtain ⟨x, hx⟩ | ⟨why, hwhy⟩ := ofReader_outcome hi ha
  · obtain ⟨act, hact, hx⟩ := hx s hs
    exact ⟨act, x, hact, Host.Outcome.next.inj (h.symm.trans hx)⟩
  · cases h.symm.trans (hwhy s hs)

end Sys2Proof.Machine
end

section
/-! SUPPORT. The operation in progress: a step of it completes while its reader exists, takes nothing from the port or a
mailbox, and goes on for the same reader (20_memory.md R46; log 20). -/

namespace Sys2Proof.Machine

/-- The invariant, by owner. -/
theorem activityOwned_iff {s : State} :
    s.activityOwned = true ↔ ∀ r, s.activity.owner = some r → ∃ slot a, s.Live r slot a := by
  have exists_iff : ∀ r, (s.reader? r).isSome = true ↔ ∃ slot a, s.Live r slot a := fun r => by
    simp only [Option.isSome_iff_exists, reader?_eq_some]
    exact exists_comm
  cases hact : s.activity with
  | idle => simp [State.activityOwned, hact]
  | extracting owner b ms => cases owner <;> simp [State.activityOwned, hact, exists_iff]
  | delivering r => simp [State.activityOwned, hact, exists_iff]

/-- An operation acts on an extraction only if one is in progress (log 22). -/
theorem withExtraction_next {s t : State} {k : Option ReaderId → List Byte → List Message → Result}
    (h : withExtraction s k = .next t) :
    ∃ owner b ms, s.activity = .extracting owner b ms ∧ k owner b ms = .next t := by
  unfold withExtraction at h
  split at h
  · cases h
  · exact ⟨_, _, _, ‹_›, h⟩
  · cases h

/-- The stop of the loop leaves a caller's operation ended and a reader's in its delivery. -/
theorem stopExtraction_continues {owner : Option ReaderId} {b b' : List Byte} {ms ms' : List Message} {s t : State}
    (h : stopExtraction owner b ms s = .next t) :
    (Activity.extracting owner b' ms').Continues t.activity := by
  cases owner with
  | none => cases h; exact .inr rfl
  | some r =>
    obtain ⟨slot, a, -, -, h⟩ := onReader_next h
    cases h
    exact .inl rfl

/-- No operation begins another in the middle of one: what is in progress goes on for its owner or ends. -/
theorem exec_continues {i : Instr} {s t : State} (h : exec i s = .next t) : s.activity.Continues t.activity := by
  have ofReader : ∀ r, OfReader i r → s.activity.Continues t.activity := fun r hi => by
    obtain ⟨act, x, hact, rfl⟩ := ofReader_next hi h
    exact hact
  cases i
  case stop r | drain r | deliver r | notify r | ingest r _ | configure r _ => exact ofReader r (by simp [OfReader])
  case xShort =>
    obtain ⟨owner, b, ms, hact, h⟩ := withExtraction_next h
    rw [hact]
    split at h
    case h_1 => exact stopExtraction_continues h
    all_goals cases h
  case xWait =>
    obtain ⟨owner, b, ms, hact, h⟩ := withExtraction_next h
    rw [hact]
    split at h
    case h_2 => exact stopExtraction_continues h
    all_goals cases h
  case xEmit | xDrop =>
    obtain ⟨owner, b, ms, hact, h⟩ := withExtraction_next h
    rw [hact]
    split at h <;> cases h
    exact .inl rfl
  case encode =>
    simp only [exec, execEncode] at h
    split at h <;> cases h
    exact .refl _
  case start | checksum | decode | isvalid | append | extractall | frame => cases h; exact .refl _
  case unassigned0101 | unassigned0110 | unassigned0111 | unassigned1110 | unassigned1111 => cases h

/-- A reader goes only by its STOP (70_reset_and_hazards.md R161). -/
theorem exec_keeps_live {i : Instr} {s t : State} {r : ReaderId} (h : exec i s = .next t) (hi : i ≠ .stop r)
    (hlive : ∃ slot a, s.Live r slot a) : ∃ slot a, t.Live r slot a := by
  obtain ⟨slot, a, hs, ha⟩ := hlive
  obtain hsame | ⟨-, x, -, hx, ⟨hstop, -⟩ | ⟨a', ha', -⟩⟩ := exec_slot h hs
  · exact ⟨slot, a, hsame, ha⟩
  · exact absurd hstop hi
  · exact ⟨x, a', hx, ha'⟩

/-- An operation other than STOP keeps the reader of the operation in progress in existence. -/
theorem exec_keeps_activityOwned {i : Instr} {s t : State} (hi : ∀ r, i ≠ .stop r) (hs : s.activityOwned = true)
    (h : exec i s = .next t) : t.activityOwned = true := by
  rw [activityOwned_iff] at hs ⊢
  intro r hr
  exact exec_keeps_live h (hi r) (hs r ((exec_continues h).owner_eq_some hr))

/-- With nothing in progress there is no reader to keep. -/
theorem activityOwned_of_idle {s : State} (h : s.activity = .idle) : s.activityOwned = true := by
  simp [State.activityOwned, h]

/-- Between operations nothing is in progress. -/
theorem internalInstr_eq_none {s : State} : s.internalInstr = none ↔ s.activity = .idle := by
  unfold State.internalInstr
  split <;> simp_all

/-- No internal step is a STOP (20_memory.md R46). -/
theorem internalInstr_ne_stop {s : State} {i : Instr} (h : s.internalInstr = some i) (r : ReaderId) : i ≠ .stop r := by
  rintro rfl
  unfold State.internalInstr passInstr at h
  split at h
  · cases h
  · split at h <;> cases h
  · split at h <;> cases h

/-- Between operations a move leaves nothing in progress, or the loop of a caller or of a reader that exists. -/
theorem movesTo_activityOwned {s t : State} (hidle : s.activity = .idle) (h : s.MovesTo t) : t.activityOwned = true := by
  obtain ⟨u, hu, ht⟩ := h
  have hidle : u.activity = .idle := hu.activity.trans hidle
  obtain rfl | ⟨i, hi⟩ := ht
  · exact activityOwned_of_idle hidle
  · obtain hi | ⟨owner, b, rfl, hown⟩ := perform_next hi
    · rw [activityOwned_iff]
      intro r hr
      have hbefore := (exec_continues hi).owner_eq_some hr
      rw [hidle] at hbefore
      cases hbefore
    · exact activityOwned_iff.mpr hown

/-- Nothing issued is taken: the port, the turns, the number of readers and every mailbox stay (20_memory.md R46). -/
abbrev State.TakesNothing (s t : State) : Prop :=
  t.port = s.port ∧ t.turns = s.turns ∧ t.slots.length = s.slots.length ∧
    ∀ r, (t.reader? r).map Reader.mailbox = (s.reader? r).map Reader.mailbox

/-- Nothing is taken by a change of what is in progress. -/
theorem takesNothing_activity (s : State) (act : Activity) : s.TakesNothing { s with activity := act } :=
  ⟨rfl, rfl, rfl, fun _ => rfl⟩

/-- Writing a reader with its old mailbox takes nothing. -/
theorem takesNothing_putSlot {s : State} {r : ReaderId} {slot x : Slot} {a : Reader} (h : s.Live r slot a)
    (hx : x.reader.map Reader.mailbox = some a.mailbox) (act : Activity) :
    s.TakesNothing ({ s with activity := act }.putSlot r x) := by
  obtain ⟨hs, ha⟩ := h
  refine ⟨rfl, rfl, List.length_set, fun r' => ?_⟩
  by_cases hr : r' = r
  · subst hr
    have hnew := putSlot_same (s := { s with activity := act }) x hs
    rw [State.reader?, hnew, Option.bind_some, hx, reader?_eq_some.mpr ⟨slot, hs, ha⟩, Option.map_some]
  · rw [State.reader?, State.reader?, putSlot_other x hr]

/-- The stop of the loop completes while the owner exists, and takes nothing. -/
theorem stopExtraction_completes {owner : Option ReaderId} {s : State}
    (hown : ∀ r, owner = some r → ∃ slot a, s.Live r slot a) (b : List Byte) (ms : List Message) :
    ∃ t, stopExtraction owner b ms s = .next t ∧ s.TakesNothing t := by
  cases owner with
  | none => exact ⟨_, rfl, rfl, rfl, rfl, fun _ => rfl⟩
  | some r =>
    obtain ⟨slot, a, hs, ha⟩ := hown r rfl
    exact ⟨_, onReader_live _ hs ha, takesNothing_putSlot ⟨hs, ha⟩ rfl _⟩

/-- The pass that the buffer selects completes and takes nothing (41_framebuffer.md R106). -/
theorem passInstr_completes {s : State} {owner : Option ReaderId} {b : List Byte} {ms : List Message}
    (hact : s.activity = .extracting owner b ms) (hown : ∀ r, owner = some r → ∃ slot a, s.Live r slot a) :
    ∃ t, exec (passInstr b) s = .next t ∧ s.TakesNothing t := by
  unfold passInstr
  cases hp : passOf b with
  | short => simpa [exec, execXShort, withExtraction, hact, hp] using stopExtraction_completes hown b ms
  | wait => simpa [exec, execXWait, withExtraction, hact, hp] using stopExtraction_completes hown b ms
  | emit m rest =>
    exact ⟨{ s with activity := .extracting owner rest (ms ++ [m]) },
      by simp [exec, execXEmit, withExtraction, hact, hp], takesNothing_activity s _⟩
  | drop rest =>
    exact ⟨{ s with activity := .extracting owner rest ms },
      by simp [exec, execXDrop, withExtraction, hact, hp], takesNothing_activity s _⟩

/-- A pass is one of the four rows (30_encoding.md R75). -/
theorem passInstr_mem (b : List Byte) : passInstr b ∈ [Instr.xShort, Instr.xWait, Instr.xEmit, Instr.xDrop] := by
  unfold passInstr
  split <;> simp

/-- There is a notification to emit in active mode, with a listener and a queued Message (42_reader.md R121). -/
theorem hasToNotify_iff {s : State} {r : ReaderId} {a : Reader} (h : s.reader? r = some a) :
    s.hasToNotify r = true ↔ a.mode = .active ∧ a.listener ≠ none ∧ a.queue ≠ [] := by
  have htarget : a.pushTarget.isSome = true ↔ a.mode = .active ∧ a.listener ≠ none := by
    simp [Option.isSome_iff_exists, pushTarget_eq_some, Option.ne_none_iff_exists']
  simp [State.hasToNotify, h, htarget, and_assoc]

/-- NOTIFY of a reader that exists completes and takes nothing (42_reader.md R124). -/
theorem notify_completes {s : State} {r : ReaderId} {slot : Slot} {a : Reader} (h : s.Live r slot a) :
    ∃ t, exec (.notify r) s = .next t ∧ s.TakesNothing t := by
  obtain hn | ⟨l, m, ms, hl, hq⟩ := silent_or_push a
  · exact ⟨s, exec_notify_silent h hn, takesNothing_activity s s.activity⟩
  · exact ⟨_, exec_notify_push h hl hq, takesNothing_putSlot h rfl s.activity⟩

/-- DELIVER of a reader that exists completes and takes nothing (42_reader.md R121). -/
theorem deliver_completes {s : State} {r : ReaderId} {slot : Slot} {a : Reader} (h : s.Live r slot a) :
    ∃ t, exec (.deliver r) s = .next t ∧ s.TakesNothing t := by
  obtain ⟨q, hq⟩ := deliver_reader slot a
  exact ⟨_, exec_deliver_live h, takesNothing_putSlot h (by rw [hq, Option.map_some]) _⟩

/-- The step that a delivery in progress takes next completes and takes nothing (42_reader.md R121). -/
theorem deliveryInstr_completes {s : State} {r : ReaderId} {slot : Slot} {a : Reader} (h : s.Live r slot a) :
    ∃ t, exec (if s.hasToNotify r then .notify r else .deliver r) s = .next t ∧ s.TakesNothing t := by
  split
  · exact notify_completes h
  · exact deliver_completes h

end Sys2Proof.Machine
end

section
/-! SUPPORT. What a step runs between operations, from the port and from a mailbox (20_memory.md R47; log 19). -/

namespace Sys2Proof.Machine

/-- With no turn set and nothing waiting a step takes the next command of the port. -/
theorem step_port {s : State} (ha : s.activity = .idle) (ht : s.turns = []) (hw : s.NothingWaits) :
    step s = takeCommand s perform := by
  rw [step_idle ha, moveOn, ht, pendingReader?_none hw]

/-- At a reader's turn that reader processes the oldest operation of its mailbox. -/
theorem step_work {s : State} {r : ReaderId} {ts : List Turn} (ha : s.activity = .idle) (ht : s.turns = .work r :: ts) :
    step s = processHead r { s with turns := ts } := by
  rw [step_idle ha, moveOn, ht]

/-- Pass by pass an INGEST of a reader that exists enters its loop on the appended buffer (42_reader.md R120). -/
theorem perform_ingest_entersLoop {s : State} {r : ReaderId} {slot : Slot} {a : Reader} (bytes : List Byte)
    (h : s.Live r slot a) (hpass : s.grain = .pass) :
    perform (.ingest r bytes) s = .next (s.beginExtraction (some r) (a.buffer ++ bytes)) :=
  (perform_pass_ingest r bytes hpass).trans (onReader_live _ h.1 h.2)

/-- Of the requests only an INGEST has passes (41_framebuffer.md R101). -/
theorem toInstr_hasPasses {q : Request} {r : ReaderId} (h : HasPasses (q.toInstr r)) : ∃ bytes, q = .ingest bytes := by
  cases q with
  | ingest bytes => exact ⟨bytes, rfl⟩
  | drain => obtain ⟨_, _, h⟩ | ⟨_, h⟩ := h <;> cases h
  | configure o => obtain ⟨_, _, h⟩ | ⟨_, h⟩ := h <;> cases h

/-- Whole, or without passes, the oldest operation of a mailbox is run at once. -/
theorem processHead_atOnce {s : State} {r : ReaderId} {slot : Slot} {a : Reader} {q : Request} {qs : List Request}
    (h : s.Live r slot a) (hq : a.mailbox = q :: qs) (hatOnce : s.grain = .whole ∨ ∀ bytes, q ≠ .ingest bytes) :
    processHead r s = exec (q.toInstr r) (s.putSlot r (slot.putReader { a with mailbox := qs })) := by
  rw [processHead_live h hq]
  refine perform_atOnce (hatOnce.imp id fun hne hp => ?_)
  obtain ⟨bytes, hbytes⟩ := toInstr_hasPasses hp
  exact hne bytes hbytes

/-- Pass by pass an INGEST taken from a mailbox enters its loop (42_reader.md R120). -/
theorem processHead_entersLoop {s : State} {r : ReaderId} {slot : Slot} {a : Reader} {bytes : List Byte}
    {qs : List Request} (h : s.Live r slot a) (hq : a.mailbox = .ingest bytes :: qs) (hpass : s.grain = .pass) :
    processHead r s = .next ((s.putSlot r (slot.putReader { a with mailbox := qs })).beginExtraction (some r)
      (a.buffer ++ bytes)) := by
  rw [processHead_live h hq]
  exact perform_ingest_entersLoop (a := { a with mailbox := qs }) bytes ⟨putSlot_same _ h.1, rfl⟩ hpass

end Sys2Proof.Machine
end

section
/-! The obligations about memory and the order of operations (20_memory.md). -/

namespace Sys2Proof.Machine

/-- Settles O60: no internal step is a STOP, and between operations a loop is entered only for a reader that exists. -/
theorem everyStepKeepsTheActivityOwned : Obligations.EveryStepKeepsTheActivityOwned := by
  intro s t hs h
  obtain ⟨i, hi, h⟩ | ⟨hnone, hm⟩ := step_next h
  · exact exec_keeps_activityOwned (internalInstr_ne_stop hi) hs h
  · exact movesTo_activityOwned (internalInstr_eq_none.mp hnone) hm

/-- Settles O43: such an operation writes the record of its reader. -/
theorem operationsOnOneReaderLeaveTheOthers : Obligations.OperationsOnOneReaderLeaveTheOthers := by
  intro i r r' s t hi h hne
  obtain ⟨act, x, -, rfl⟩ := ofReader_next hi h
  exact ⟨putSlot_other x hne, rfl, List.length_set⟩

/-- Settles O44: whether the reader exists, and what it is, stands in the record both states share. -/
theorem outcomeDependsOnTheReaderAlone : Obligations.OutcomeDependsOnTheReaderAlone := by
  intro i r s1 s2 hi hsame
  obtain ⟨k, hk⟩ := ofReader_onReader hi
  cases hs : s2.slots[r]? with
  | none =>
    refine .inr ⟨.beforeStart, ?_, ?_⟩ <;> rw [hk]
    · exact onReader_beforeStart _ (hsame.trans hs)
    · exact onReader_beforeStart _ hs
  | some slot =>
    have hs1 : s1.slots[r]? = some slot := hsame.trans hs
    cases ha : slot.reader with
    | none =>
      refine .inr ⟨.afterStop, ?_, ?_⟩ <;> rw [hk]
      · exact onReader_afterStop _ hs1 ha
      · exact onReader_afterStop _ hs ha
    | some a =>
      obtain ⟨x, hx⟩ | ⟨why, hwhy⟩ := ofReader_outcome hi ha
      · obtain ⟨act1, -, h1⟩ := hx s1 hs1
        obtain ⟨act2, -, h2⟩ := hx s2 hs
        exact .inl ⟨_, _, h1, h2, (putSlot_same x hs1).trans (putSlot_same x hs).symm⟩
      · exact .inr ⟨why, hwhy s1 hs1, hwhy s2 hs⟩

/-- Settles O57: the internal step is a selected pass, or NOTIFY or DELIVER of a reader that exists. -/
theorem operationsInProgressNeverStop : Obligations.OperationsInProgressNeverStop := by
  refine ⟨fun s i => step_internal, fun s howned hbusy => ?_⟩
  rw [activityOwned_iff] at howned
  cases hact : s.activity with
  | idle => exact absurd hact hbusy
  | extracting owner b ms =>
    have hi : s.internalInstr = some (passInstr b) := by rw [State.internalInstr, hact]
    obtain ⟨t, ht, hframe⟩ := passInstr_completes hact fun r hr => howned r (by rw [hact]; exact hr)
    exact ⟨_, t, step_internal hi, ht, fun _ _ _ h => by cases h; exact passInstr_mem b, nofun, hframe⟩
  | delivering r =>
    obtain ⟨slot, a, hlive⟩ := howned r (by rw [hact]; rfl)
    have ha : s.reader? r = some a := reader?_eq_some.mpr ⟨slot, hlive⟩
    obtain ⟨t, ht, hframe⟩ := deliveryInstr_completes hlive
    refine ⟨_, t, step_internal (by rw [State.internalInstr, hact]), ht, nofun, ?_, hframe⟩
    rintro _ reader ⟨⟩ hreader
    obtain rfl : a = reader := Option.some.inj (ha.symm.trans hreader)
    refine ⟨fun hpush => if_pos ((hasToNotify_iff ha).mpr hpush), fun hhold => if_neg fun hn => ?_⟩
    obtain ⟨hmode, hlistener, hqueue⟩ := (hasToNotify_iff ha).mp hn
    simp [hmode, hlistener, hqueue] at hhold

/-- Settles O34: the first DRAIN leaves a passive reader with an empty queue. -/
theorem secondDrainReturnsNothing : Obligations.SecondDrainReturnsNothing := by
  intro r s slot reader hlive hmode
  have hfirst := putSlot_same ((slot.putReader { reader with queue := [] }).reply (.drained reader.queue)) hlive.1
  exact ⟨_, _, _, exec_drain_passive hlive hmode, exec_drain_passive ⟨hfirst, rfl⟩ hmode, putSlot_same _ hfirst,
    by simp⟩

/-- Settles O49: nothing comes before the command of the port. -/
theorem stepRunsTheDecodedCommand : Obligations.StepRunsTheDecodedCommand := by
  intro s i rest hidle hturns hwaits hd hatOnce
  rw [step_port hidle hturns hwaits, takeCommand_ok perform hd]
  exact perform_atOnce hatOnce

/-- Settles O52: the turn is the reader's, and the operation is the head of its mailbox. -/
theorem workProcessesTheOldestOperation : Obligations.WorkProcessesTheOldestOperation := by
  intro s r q qs ts slot reader hidle hturns hlive hq
  rw [step_work hidle hturns]
  refine ⟨fun hatOnce => processHead_atOnce hlive hq hatOnce, ?_⟩
  rintro bytes hpass rfl
  exact processHead_entersLoop hlive hq hpass

end Sys2Proof.Machine
end

section
/-! SUPPORT. Every command's operands are read back from their bytes (30_encoding.md R72; log 1). -/

namespace Sys2Proof

/-- The arguments of START are read back. -/
@[simp] theorem readStartOptions_put (o : Options) (rest : List Byte) :
    readStartOptions (putStartOptions o ++ rest) = .ok (o, rest) := by
  simp [readStartOptions, putStartOptions, readOption_put readFlag_put, readOption_put readName_put,
    readOption_put (readOption_put readListener_put)]

/-- The record of CONFIGURE is read back, with the fields it lacks. -/
@[simp] theorem readConfigureOptions_put (o : Options) (rest : List Byte) :
    readConfigureOptions (putConfigureOptions o ++ rest) = .ok (o, rest) := by
  simp [readConfigureOptions, putConfigureOptions, readField_put readFlag_put, readField_put readName_put,
    readField_put (readOption_put readListener_put)]

/-- Under its select code a command is read back from its operand bytes, whatever follows them. -/
theorem decodeOperands_operandBytes {i : Instr} {op : BitVec 4} (rest : List Byte) (h : i.selectCode = some op) :
    decodeOperands op.toNat (i.operandBytes ++ rest) = .ok (i, rest) := by
  cases i
  case xShort | xWait | xEmit | xDrop | frame | deliver | notify => cases h
  case unassigned0101 | unassigned0110 | unassigned0111 | unassigned1110 | unassigned1111 => cases h; rfl
  case encode src dst p => cases h; simp [decodeOperands, Instr.operandBytes, readByte]
  all_goals cases h; simp [decodeOperands, Instr.operandBytes]

/-- A command with a select code is its select byte and its operand bytes. -/
theorem encode_of_selectCode {i : Instr} {op : BitVec 4} (h : i.selectCode = some op) :
    encode i = some (op.zeroExtend 8 :: i.operandBytes) := by
  rw [encode, h, Option.map_some]

/-- A command is read back from its select byte and its operand bytes, whatever follows them. -/
theorem decode_encode {i : Instr} {op : BitVec 4} (rest : List Byte) (h : i.selectCode = some op) :
    decode (op.zeroExtend 8 :: i.operandBytes ++ rest) = .ok (i, rest) := by
  rw [List.cons_append, decode, selectByte_toNat, decodeOperands_operandBytes rest h]

end Sys2Proof
end

section
/-! SUPPORT. The layout of a frame, fields from bytes and bytes from fields (30_encoding.md R60 to R68). -/

namespace Sys2Proof.Machine

section
variable (src len dst : Byte) (p : List Byte) (c : Byte)

@[simp] theorem byteAt_zero_frameBytes : byteAt (frameBytes src len dst p c) 0 = src := rfl
@[simp] theorem byteAt_one_frameBytes : byteAt (frameBytes src len dst p c) 1 = len := rfl
@[simp] theorem byteAt_two_frameBytes : byteAt (frameBytes src len dst p c) 2 = dst := rfl
@[simp] theorem frameLen_frameBytes : frameLen (frameBytes src len dst p c) = len.toNat := rfl
@[simp] theorem declaredLength_frameBytes : declaredLength (frameBytes src len dst p c) = len.toNat + 2 := rfl

@[simp] theorem frameChecksum_frameBytes : frameChecksum (frameBytes src len dst p c) = c := by
  simp [frameChecksum, frameBytes, byteAt]

@[simp] theorem frameBody_frameBytes : frameBody (frameBytes src len dst p c) = [src, len, dst] ++ p := by
  simp [frameBody, frameBytes, slice]

@[simp] theorem framePayload_frameBytes : framePayload (frameBytes src len dst p c) = p := by
  simp [framePayload, frameBytes, slice]

end

/-- Five fields make a frame when `len` counts the payload and the checksum is the fold of the others (R62, R65). -/
abbrev FieldsAgree (src len dst : Byte) (p : List Byte) (c : Byte) : Prop :=
  len.toNat = p.length + 2 ∧ c = xorFold ([src, len, dst] ++ p)

/-- A valid frame, by its conditions; V1 follows from V2 (30_encoding.md R68). -/
theorem frameValid_iff {f : List Byte} :
    frameValid f = true ↔ f.length = declaredLength f ∧ 2 ≤ frameLen f ∧ xorFold (frameBody f) = frameChecksum f := by
  simp only [frameValid, validV1, validV2, validV3, validV4, Bool.and_eq_true, decide_eq_true_eq, beq_iff_eq]
  constructor
  · rintro ⟨⟨⟨-, hlen⟩, hsum⟩, hmin⟩
    exact ⟨hlen, hmin, hsum⟩
  · rintro ⟨hlen, hmin, hsum⟩
    exact ⟨⟨⟨by rw [hlen, declaredLength]; omega, hlen⟩, hsum⟩, hmin⟩

/-- The bytes of five fields are a valid frame when the fields agree. -/
theorem frameValid_frameBytes {src len dst : Byte} {p : List Byte} {c : Byte} :
    frameValid (frameBytes src len dst p c) = true ↔ FieldsAgree src len dst p c := by
  simp only [frameValid_iff, frameBytes_length, declaredLength_frameBytes, frameLen_frameBytes, frameBody_frameBytes,
    frameChecksum_frameBytes]
  constructor
  · rintro ⟨hlen, -, hsum⟩
    exact ⟨by omega, hsum.symm⟩
  · rintro ⟨hlen, hsum⟩
    exact ⟨by omega, by omega, hsum.symm⟩

/-- `decode` succeeds on the bytes of fields that agree, and gives the Message of the fields (40_codec.md R82). -/
theorem decodeFrame_frameBytes {src len dst : Byte} {p : List Byte} {c : Byte} {m : Message} :
    decodeFrame (frameBytes src len dst p c) = .ok m ↔
      FieldsAgree src len dst p c ∧ m.src = src ∧ m.dst = dst ∧ m.payload = p := by
  rw [decodeFrame_eq_ok, ← frameValid_frameBytes, frameValid_iff]
  simp [and_assoc]

/-- A valid frame has at least four bytes (30_encoding.md R62, R68). -/
theorem four_le_length_of_frameValid {f : List Byte} (h : frameValid f = true) : 4 ≤ f.length := by
  obtain ⟨hlen, hmin, -⟩ := frameValid_iff.mp h
  rw [hlen, declaredLength]
  omega

/-- Four or more bytes are the bytes of five fields (30_encoding.md R60). -/
theorem exists_eq_frameBytes {f : List Byte} (h : 4 ≤ f.length) :
    ∃ src len dst p c, f = frameBytes src len dst p c := by
  match f with
  | src :: len :: dst :: tail =>
    obtain rfl | ⟨p, c, rfl⟩ := List.eq_nil_or_concat tail
    · simp at h
    · exact ⟨src, len, dst, p, c, by rw [frameBytes, List.concat_eq_append]⟩

/-- The fields are read back from a valid frame (30_encoding.md R60). -/
theorem decodeWire_frameBytes {src len dst : Byte} {p : List Byte} {c : Byte}
    (h : frameValid (frameBytes src len dst p c) = true) :
    decodeWire (frameBytes src len dst p c) = .ok (.frame src len dst p c) := by
  simp [decodeWire, h]

/-- What is read from the wire is a valid frame (30_encoding.md R68). -/
theorem frameValid_of_decodeWire {f : List Byte} {i : Instr} (h : decodeWire f = .ok i) : frameValid f = true := by
  unfold decodeWire at h
  split at h
  · assumption
  · cases h

end Sys2Proof.Machine
end

section
/-! SUPPORT. When a row is refused: a pass that is not selected, and CONFIGURE of a record that lacks a field
(30_encoding.md R74, R75). -/

namespace Sys2Proof.Machine

/-- The four passes of the extraction loop, as the statements list them (30_encoding.md R75). -/
abbrev passRows : List Instr := [.xShort, .xWait, .xEmit, .xDrop]

/-- A pass acts on the extraction in progress, whatever it does with it (log 22). -/
theorem passRow_withExtraction {j : Instr} (hj : j ∈ passRows) :
    ∃ k : State → Option ReaderId → List Byte → List Message → Result, ∀ s, exec j s = withExtraction s (k s) := by
  simp only [List.mem_cons, List.not_mem_nil, or_false] at hj
  obtain rfl | rfl | rfl | rfl := hj <;> exact ⟨_, fun _ => rfl⟩

/-- A reader that stands at an address is live there. -/
theorem live_of_isSome {s : State} {r : ReaderId} (h : (s.reader? r).isSome = true) : ∃ slot a, s.Live r slot a := by
  obtain ⟨a, ha⟩ := Option.isSome_iff_exists.mp h
  obtain ⟨slot, hlive⟩ := reader?_eq_some.mp ha
  exact ⟨slot, a, hlive⟩

/-- With no extraction in progress there is nothing to go on with (log 22). -/
theorem withExtraction_none {s : State} (k : Option ReaderId → List Byte → List Message → Result)
    (h : ∀ o b ms, s.activity ≠ .extracting o b ms) : withExtraction s k = .refused .noExtraction := by
  unfold withExtraction
  split
  · rfl
  · exact absurd ‹_› (h _ _ _)
  · rfl

/-- With an extraction in progress, go on with it. -/
theorem withExtraction_extracting {s : State} {o : Option ReaderId} {b : List Byte} {ms : List Message}
    (k : Option ReaderId → List Byte → List Message → Result) (h : s.activity = .extracting o b ms) :
    withExtraction s k = k o b ms := by
  simp [withExtraction, h]

/-- A pass other than the one the buffer selects is refused (41_framebuffer.md R106; log 22). -/
theorem exec_notSelected {s : State} {o : Option ReaderId} {b : List Byte} {ms : List Message} {j : Instr}
    (hact : s.activity = .extracting o b ms) (hj : j ∈ passRows) (hne : j ≠ passInstr b) :
    exec j s = .refused .stepNotSelected := by
  simp only [List.mem_cons, List.not_mem_nil, or_false] at hj
  obtain rfl | rfl | rfl | rfl := hj <;> refine (withExtraction_extracting _ hact).trans ?_
  · split
    case h_1 hp => exact absurd (by rw [passInstr, hp]) hne
    all_goals rfl
  · split
    case h_2 hp => exact absurd (by rw [passInstr, hp]) hne
    all_goals rfl
  · split
    case h_3 hp => exact absurd (by rw [passInstr, hp]) hne
    all_goals rfl
  · split
    case h_4 hp => exact absurd (by rw [passInstr, hp]) hne
    all_goals rfl

/-- A record that lacks a field is not complete (30_encoding.md R74; D14). -/
theorem fullOptions_eq_none {o : Options} (h : o.active = none ∨ o.listener = none ∨ o.name = none) :
    fullOptions o = none := by
  unfold fullOptions
  split
  · rename_i ha hl hn
    simp [ha, hl, hn] at h
  all_goals rfl

end Sys2Proof.Machine
end

section
/-! The obligations about encodings (30_encoding.md). -/

namespace Sys2Proof.Machine

/-- Settles O47: the select byte names the command, and every operand delimits itself. -/
theorem everyCommandIsReadBack : Obligations.EveryCommandIsReadBack := by
  intro i op rest h
  exact ⟨_, encode_of_selectCode h, congrArg some (selectByte_toNat op), decode_encode rest h⟩

/-- Settles O16: `decode` of the bytes of the fields succeeds exactly when the fields agree. -/
theorem frameYieldsItsMessageOrInvalidFrame : Obligations.FrameYieldsItsMessageOrInvalidFrame := by
  intro src len dst payload c s
  have hexec : exec (.frame src len dst payload c) s =
      .next (s.answer (decodeAnswer (decodeFrame (frameBytes src len dst payload c)))) := rfl
  refine ⟨fun hlen hsum => ?_, fun hbad => ?_⟩
  · have hfits : payload.length ≤ Config.maxPayload := by
      have := len.isLt
      simp only [Config.maxPayload]
      omega
    have hd := decodeFrame_frameBytes (m := ⟨src, dst, payload, hfits⟩).mpr ⟨⟨hlen, hsum⟩, rfl, rfl, rfl⟩
    exact ⟨_, rfl, rfl, rfl, by rw [hexec, hd]; rfl⟩
  · cases hd : decodeFrame (frameBytes src len dst payload c) with
    | ok m =>
      obtain ⟨⟨hlen, hsum⟩, -⟩ := decodeFrame_frameBytes.mp hd
      exact absurd hbad (by simp [hlen, hsum])
    | error e => rw [hexec, hd, decodeFrame_error hd]; rfl

/-- Settles O24: the pass the buffer selects completes, the others find another selected. -/
theorem exactlyOnePassIsSelected : Obligations.ExactlyOnePassIsSelected := by
  refine ⟨fun s hnone j hj => ?_, fun s o b ms hact hown => ?_⟩
  · obtain ⟨k, hk⟩ := passRow_withExtraction hj
    rw [hk, withExtraction_none _ hnone]
  · obtain ⟨t, ht, -⟩ := passInstr_completes hact fun r hr => live_of_isSome (hown r hr)
    exact ⟨passInstr b, passInstr_mem b, ⟨t, ht⟩, fun j hj hne => exec_notSelected hact hj hne⟩

/-- Settles O48: a valid frame is the bytes of its five fields. -/
theorem everyWireFrameIsReadBack : Obligations.EveryWireFrameIsReadBack := by
  refine ⟨fun src len dst payload c hwf => ⟨_, rfl, ?_, decodeWire_frameBytes hwf⟩, fun f i h => ?_⟩
  · exact (frameValid_iff.mp hwf).1
  · have hvalid := frameValid_of_decodeWire h
    obtain ⟨src, len, dst, p, c, rfl⟩ := exists_eq_frameBytes (four_le_length_of_frameValid hvalid)
    rw [decodeWire_frameBytes hvalid] at h
    cases h
    exact ⟨hvalid, rfl⟩

/-- Settles O36: the record is read only of a reader that exists, and it is not complete. -/
theorem configureWithAFieldLeftOutIsRefused : Obligations.ConfigureWithAFieldLeftOutIsRefused := by
  intro r o s slot reader hlive hout
  obtain ⟨hslot, hreader⟩ := hlive
  refine (onReader_live _ hslot hreader).trans ?_
  rw [fullOptions_eq_none hout]

/-- Settles O45: each of the five rows refuses by its own code. -/
theorem unassignedCodesAreRefused : Obligations.UnassignedCodesAreRefused :=
  fun _ => ⟨rfl, rfl, rfl, rfl, rfl⟩

/-- Settles O46: each word is a closed run of the decoder. -/
theorem selectCodesReadAsTheTable : Obligations.SelectCodesReadAsTheTable := by
  unfold Obligations.SelectCodesReadAsTheTable
  decide

end Sys2Proof.Machine
end

section
/-! SUPPORT. The fold bit by bit, over lists and under a change of one byte, and where a frame holds it (40_codec.md
R80, R86, R87). -/

namespace Sys2Proof.Machine

/-- One more byte with the bit set changes whether their number is odd, one without it does not (00_scope.md R8; G1). -/
theorem getLsbD_xorFold (s : List Byte) (k : Nat) :
    (xorFold s).getLsbD k = decide ((s.filter fun b => b.getLsbD k).length % 2 = 1) := by
  induction s with
  | nil => simp
  | cons b s ih =>
    rw [xorFold_cons, BitVec.getLsbD_xor, ih]
    cases hb : b.getLsbD k with
    | false => simp [hb]
    | true =>
      simp only [List.filter_cons, hb, if_true, List.length_cons, Bool.true_xor, ← decide_not, decide_eq_decide]
      omega

theorem xorFold_append (s t : List Byte) : xorFold (s ++ t) = xorFold s ^^^ xorFold t := by
  induction s with
  | nil => simp
  | cons b s ih => rw [List.cons_append, xorFold_cons, xorFold_cons, ih, BitVec.xor_assoc]

theorem xorFold_perm {s t : List Byte} (h : s.Perm t) : xorFold s = xorFold t := by
  induction h with
  | nil => rfl
  | cons b _ ih => rw [xorFold_cons, xorFold_cons, ih]
  | swap a b s => simp only [xorFold_cons, ← BitVec.xor_assoc, BitVec.xor_comm b a]
  | trans _ _ ih ih' => exact ih.trans ih'

/-- A byte is the fold of some bytes when the fold over both is 0 (40_codec.md R86 (a)). -/
theorem xorFold_concat_eq_zero {g : List Byte} {c : Byte} : xorFold (g ++ [c]) = 0#8 ↔ xorFold g = c := by
  rw [xorFold_append, xorFold_cons, xorFold_nil, BitVec.xor_zero, BitVec.xor_eq_zero_iff]

/-- Writing a byte takes the old one out of the fold and puts the new one in. -/
theorem xorFold_set {s : List Byte} {k : Nat} (b : Byte) (h : k < s.length) :
    xorFold (s.set k b) = xorFold s ^^^ (s.getD k 0#8 ^^^ b) := by
  induction s generalizing k with
  | nil => simp at h
  | cons a s ih =>
    cases k with
    | zero =>
      rw [List.set_cons_zero, List.getD_cons_zero, xorFold_cons, xorFold_cons]
      calc b ^^^ xorFold s
        _ = (a ^^^ a) ^^^ (b ^^^ xorFold s) := by rw [BitVec.xor_self, BitVec.zero_xor]
        _ = a ^^^ xorFold s ^^^ (a ^^^ b) := by ac_rfl
    | succ k =>
      rw [List.set_cons_succ, List.getD_cons_succ, xorFold_cons, xorFold_cons, ih (Nat.lt_of_succ_lt_succ h),
        BitVec.xor_assoc]

/-- The payload stands behind `src`, `len` and `dst` (30_encoding.md R60). -/
theorem encodeMessage_payload (m : Message) {i : Nat} (h : i < m.payload.length) :
    (encodeMessage m)[3 + i]? = m.payload[i]? := by
  rw [encodeMessage_eq, frameBytes, Nat.add_comm]
  simp only [List.getElem?_cons_succ, List.getElem?_append_left h]

/-- The last byte is the fold of those before it (30_encoding.md R65). -/
theorem encodeMessage_checksum (m : Message) : (encodeMessage m)[m.payload.length + 3]? =
    some (xorFold ((encodeMessage m).take (m.payload.length + 3))) := by
  have hbody : (messageBody m).length = m.payload.length + 3 := rfl
  rw [encodeMessage, ← hbody, List.take_left, List.getElem?_concat_length]

/-- A sequence that is not empty is its covered part and its checksum byte (30_encoding.md R65). -/
theorem frameBody_append_frameChecksum {f : List Byte} (h : f ≠ []) : frameBody f ++ [frameChecksum f] = f := by
  obtain ⟨g, c, rfl⟩ := (List.eq_nil_or_concat f).resolve_left h
  simp [frameBody, frameChecksum, byteAt, slice]

/-- V3 over the whole sequence: its fold is 0 (40_codec.md R86 (a)). -/
theorem xorFold_frameBody_eq_iff {f : List Byte} (h : f ≠ []) :
    xorFold (frameBody f) = frameChecksum f ↔ xorFold f = 0#8 := by
  rw [← xorFold_concat_eq_zero, frameBody_append_frameChecksum h]

end Sys2Proof.Machine
end

section
/-! SUPPORT. `decode` and `isValid` are the validity of the frame, and what each pure operation answers (40_codec.md R82,
R83, R88). -/

namespace Sys2Proof.Machine

/-- `decode` of a valid frame gives the Message taken from its places (40_codec.md R82). -/
theorem decodeFrame_of_frameValid {f : List Byte} (h : frameValid f = true) :
    ∃ m : Message, decodeFrame f = .ok m ∧ m.src = byteAt f 0 ∧ m.dst = byteAt f 2 ∧ m.payload = framePayload f := by
  obtain ⟨hlen, hmin, hsum⟩ := frameValid_iff.mp h
  exact ⟨⟨byteAt f 0, byteAt f 2, framePayload f, framePayload_fits hlen⟩,
    decodeFrame_eq_ok.mpr ⟨hlen, hmin, hsum, rfl, rfl, rfl⟩, rfl, rfl, rfl⟩

/-- Only a valid frame decodes (30_encoding.md R68). -/
theorem frameValid_of_decodeFrame {f : List Byte} {m : Message} (h : decodeFrame f = .ok m) : frameValid f = true := by
  obtain ⟨hlen, hmin, hsum, -⟩ := decodeFrame_eq_ok.mp h
  exact frameValid_iff.mpr ⟨hlen, hmin, hsum⟩

theorem decodeFrame_of_not_frameValid {f : List Byte} (h : ¬ frameValid f = true) :
    decodeFrame f = .error .invalidFrame := by
  cases hd : decodeFrame f with
  | ok m => exact absurd (frameValid_of_decodeFrame hd) h
  | error e => rw [decodeFrame_error hd]

/-- `isValid` is: `decode` succeeded (40_codec.md R83). -/
theorem isValidFrame_iff_decodeFrame {f : List Byte} : isValidFrame f = true ↔ ∃ m, decodeFrame f = .ok m := by
  unfold isValidFrame
  cases decodeFrame f <;> simp

theorem isValidFrame_eq_frameValid (f : List Byte) : isValidFrame f = frameValid f := by
  rw [Bool.eq_iff_iff, isValidFrame_iff_decodeFrame]
  constructor
  · rintro ⟨m, hm⟩
    exact frameValid_of_decodeFrame hm
  · intro h
    obtain ⟨m, hm, -⟩ := decodeFrame_of_frameValid h
    exact ⟨m, hm⟩

/-- Wherever the byte stands, the fold over the whole sequence is no longer 0 (40_codec.md R87). -/
theorem not_frameValid_set {f : List Byte} {k : Nat} {b : Byte} (hf : frameValid f = true) (hk : k < f.length)
    (hb : b ≠ f.getD k 0#8) : ¬ frameValid (f.set k b) = true := by
  intro hset
  have hfour := four_le_length_of_frameValid hf
  have hne : f ≠ [] := by
    rintro rfl
    simp at hfour
  obtain ⟨-, -, hsum⟩ := frameValid_iff.mp hf
  obtain ⟨-, -, hsum'⟩ := frameValid_iff.mp hset
  rw [xorFold_frameBody_eq_iff hne] at hsum
  rw [xorFold_frameBody_eq_iff (by simpa using hne), xorFold_set b hk, hsum, BitVec.zero_xor,
    BitVec.xor_eq_zero_iff] at hsum'
  exact hb hsum'.symm

/-- The fields of a Message are the operand of that Message (10_state.md R26). -/
theorem messageOperand_message (m : Message) : messageOperand m.src m.dst m.payload = some m := dif_pos m.fits

/-- A longer payload is no Message's (10_state.md R26; D5). -/
theorem messageOperand_tooLong (src dst : Byte) {p : List Byte} (h : Config.maxPayload < p.length) :
    messageOperand src dst p = none := dif_neg (not_le_of_gt h)

section
variable (s : State)

theorem exec_checksum (bytes : List Byte) : exec (.checksum bytes) s = .next (s.answer (.byte (xorFold bytes))) := rfl
theorem exec_decode (f : List Byte) : exec (.decode f) s = .next (s.answer (decodeAnswer (decodeFrame f))) := rfl
theorem exec_isvalid (f : List Byte) : exec (.isvalid f) s = .next (s.answer (.bool (isValidFrame f))) := rfl
theorem exec_append (b x : List Byte) : exec (.append b x) s = .next (s.answer (.bytes (bufAppend b x))) := rfl
theorem exec_extractall (b : List Byte) :
    exec (.extractall b) s = .next (s.answer (.extraction (extractAll b).1 (extractAll b).2)) := rfl

/-- ENCODE of a Message answers its frame (40_codec.md R81). -/
theorem exec_encode_message (m : Message) :
    exec (.encode m.src m.dst m.payload) s = .next (s.answer (.bytes (encodeMessage m))) := by
  change execEncode m.src m.dst m.payload s = _
  rw [execEncode, messageOperand_message]

/-- ENCODE of a value that is no Message is refused (60_exceptions.md R154). -/
theorem exec_encode_tooLong (src dst : Byte) {p : List Byte} (h : Config.maxPayload < p.length) :
    exec (.encode src dst p) s = .refused .notAMessage := by
  change execEncode src dst p s = _
  rw [execEncode, messageOperand_tooLong src dst h]

/-- DECODE answers a Message exactly when `decode` gives it: answers are compared whole. -/
theorem exec_decode_eq_message {f : List Byte} {m : Message} :
    exec (.decode f) s = .next (s.answer (.message m)) ↔ decodeFrame f = .ok m := by
  rw [exec_decode]
  cases hd : decodeFrame f with
  | ok m' => simp [State.answer, decodeAnswer]
  | error e => simp [State.answer, decodeAnswer]

end

end Sys2Proof.Machine
end

section
/-! The obligations about the codec (40_codec.md). -/

namespace Sys2Proof.Machine

/-- Settles O7: the fold, bit by bit. -/
theorem checksumIsTheExclusiveOrOfAllBytes : Obligations.ChecksumIsTheExclusiveOrOfAllBytes :=
  fun bytes s => ⟨xorFold bytes, exec_checksum s bytes, getLsbD_xorFold bytes⟩

/-- Settles O8: exclusive-or is associative, commutative and its own inverse. -/
theorem xorFoldSplitsAndIgnoresOrder : Obligations.XorFoldSplitsAndIgnoresOrder :=
  ⟨xorFold_append, fun _ _ => xorFold_perm, fun _ _ => eq_comm.trans xorFold_concat_eq_zero.symm⟩

/-- Settles O9: the operand is a Message, whose frame lays its fields out. -/
theorem encodeLaysTheMessageOut : Obligations.EncodeLaysTheMessageOut := by
  intro src dst payload s hfits
  obtain ⟨m, rfl, rfl, rfl⟩ : ∃ m : Message, m.src = src ∧ m.dst = dst ∧ m.payload = payload :=
    ⟨⟨src, dst, payload, hfits⟩, rfl, rfl, rfl⟩
  exact ⟨encodeMessage m, exec_encode_message s m, encodeMessage_length m, rfl,
    congrArg some (lenByte_toNat hfits), rfl, fun _ => encodeMessage_payload m, encodeMessage_checksum m⟩

/-- Settles O11: the four conditions are the validity of the frame. -/
theorem decodeJudgesTheFourConditions : Obligations.DecodeJudgesTheFourConditions := by
  intro f s
  refine ⟨fun _ hlen hsum hmin => ?_, fun hbad => ?_⟩
  · obtain ⟨m, hm, hfields⟩ := decodeFrame_of_frameValid (frameValid_iff.mpr ⟨hlen, hmin, hsum⟩)
    exact ⟨m, (exec_decode_eq_message s).mpr hm, hfields⟩
  · have hinvalid : ¬ frameValid f = true := fun h =>
      have ⟨hlen, hmin, hsum⟩ := frameValid_iff.mp h
      hbad ⟨Nat.le_of_add_left_le (four_le_length_of_frameValid h), hlen, hsum, hmin⟩
    rw [exec_decode, decodeFrame_of_not_frameValid hinvalid]
    rfl

/-- Settles O12: both operations run `decode`. -/
theorem isValidTellsWhetherDecodeSucceeds : Obligations.IsValidTellsWhetherDecodeSucceeds :=
  fun f s => ⟨isValidFrame f, exec_isvalid s f,
    isValidFrame_iff_decodeFrame.trans (exists_congr fun _ => (exec_decode_eq_message s).symm)⟩

/-- Settles O13: the fields of an encoded Message agree. -/
theorem decodeOfEncodeIsTheMessage : Obligations.DecodeOfEncodeIsTheMessage := by
  intro m
  rw [encodeMessage_eq, decodeFrame_frameBytes]
  exact ⟨⟨lenByte_toNat m.fits, rfl⟩, rfl, rfl, rfl⟩

/-- Settles O14: a valid frame is the bytes of its five fields, and the other two follow from the Message's. -/
theorem encodeOfDecodeIsTheFrame : Obligations.EncodeOfDecodeIsTheFrame := by
  intro f m h
  obtain ⟨src, len, dst, p, c, rfl⟩ :=
    exists_eq_frameBytes (four_le_length_of_frameValid (frameValid_of_decodeFrame h))
  obtain ⟨⟨hlen, hsum⟩, rfl, rfl, rfl⟩ := decodeFrame_frameBytes.mp h
  have hlenByte : lenByte m.payload.length = len := BitVec.eq_of_toNat_eq ((lenByte_toNat m.fits).trans hlen.symm)
  rw [encodeMessage_eq, messageBody, hlenByte, hsum]
  rfl

/-- Settles O15: the change shows in the fold over the whole frame. -/
theorem oneChangedByteIsAlwaysDetected : Obligations.OneChangedByteIsAlwaysDetected := by
  intro f k b s hvalid hk hb
  rw [isValidFrame_eq_frameValid] at hvalid
  rw [exec_isvalid, isValidFrame_eq_frameValid, Bool.eq_false_of_not_eq_true (not_frameValid_set hvalid hk hb)]
  rfl

/-- Settles O17: each row answers a function of its operands. -/
theorem pureOperationsOnlyAnswer : Obligations.PureOperationsOnlyAnswer := by
  rintro i hwf (⟨bytes, rfl | rfl | rfl | rfl⟩ | ⟨src, dst, p, rfl⟩ | ⟨b, x, rfl⟩)
  · exact ⟨_, fun s => exec_checksum s bytes⟩
  · exact ⟨_, fun s => exec_decode s bytes⟩
  · exact ⟨_, fun s => exec_isvalid s bytes⟩
  · exact ⟨_, fun s => exec_extractall s bytes⟩
  · exact ⟨_, fun s => exec_encode_message s ⟨src, dst, p, of_decide_eq_true hwf⟩⟩
  · exact ⟨_, fun s => exec_append s b x⟩

/-- Settles O10: the value is no Message. -/
theorem encodeOfNoMessageIsRefused : Obligations.EncodeOfNoMessageIsRefused :=
  fun src dst _ s => exec_encode_tooLong s src dst

end Sys2Proof.Machine
end

section
/-! SUPPORT. The extraction pass by pass: what selects a pass, what it does to the whole extraction, and induction over
the passes (41_framebuffer.md R101 to R106). -/

namespace Sys2Proof.Machine

/-- The loop goes on when at least five bytes and the whole declared frame are present (30_encoding.md R75). -/
theorem settled_eq_false_iff {b : List Byte} :
    settled b = false ↔ 5 ≤ b.length ∧ declaredLength b ≤ b.length := by
  refine ⟨declaredLength_le, fun ⟨hfive, hlen⟩ => ?_⟩
  rw [← Bool.not_eq_true, settled_iff]
  simp only [declaredLength] at hlen
  omega

theorem passOf_of_short {b : List Byte} (h : b.length < 5) : passOf b = .short :=
  if_pos (tooShort_iff.mpr h)

theorem passOf_of_incomplete {b : List Byte} (hfive : 5 ≤ b.length) (hlen : b.length < declaredLength b) :
    passOf b = .wait := by
  have hwait : incomplete b = true := by
    simp only [declaredLength] at hlen
    exact incomplete_iff.mpr (by omega)
  rw [passOf, if_neg (mt tooShort_iff.mp (not_lt.mpr hfive)), if_pos hwait]

section
variable {b : List Byte} (hfive : 5 ≤ b.length) (hlen : declaredLength b ≤ b.length)
include hfive hlen

theorem passOf_of_decodes {m : Message} (h : decodeFrame (b.take (declaredLength b)) = .ok m) :
    passOf b = .emit m (b.drop (declaredLength b)) :=
  passOf_eq_emit.mpr ⟨settled_eq_false_iff.mpr ⟨hfive, hlen⟩, h, rfl⟩

theorem passOf_of_not_decodes {e : ErrorKind} (h : decodeFrame (b.take (declaredLength b)) = .error e) :
    passOf b = .drop (b.drop 1) :=
  passOf_eq_drop.mpr ⟨settled_eq_false_iff.mpr ⟨hfive, hlen⟩, ⟨e, h⟩, rfl⟩

end

/-- A whole extraction is a first pass and the loop on what that pass leaves. -/
theorem extractAll_eq_extractLoop_succ (b : List Byte) : extractAll b = extractLoop (b.length + 1) b :=
  (extractLoop_enough (Nat.le_succ _)).symm

/-- A buffer that stops the loop is its own remainder (41_framebuffer.md R102, R103). -/
theorem extractAll_of_settled {b : List Byte} (h : settled b = true) : extractAll b = ([], b) := by
  obtain hp | hp := passOf_stops.mpr h <;> rw [extractAll_eq_extractLoop_succ, extractLoop, hp]

/-- A pass that emits gives the first message of the extraction (41_framebuffer.md R104). -/
theorem extractAll_of_emit {b rest : List Byte} {m : Message} (h : passOf b = .emit m rest) :
    extractAll b = (m :: (extractAll rest).1, (extractAll rest).2) := by
  have hrest := extractLoop_enough (passOf_shrinks (.inl ⟨m, h⟩)).le
  rw [extractAll_eq_extractLoop_succ, extractLoop, h]
  simp only [hrest]

/-- A pass that drops leaves no trace in the extraction (41_framebuffer.md R105). -/
theorem extractAll_of_drop {b rest : List Byte} (h : passOf b = .drop rest) : extractAll b = extractAll rest := by
  have hrest := extractLoop_enough (passOf_shrinks (.inr h)).le
  rw [extractAll_eq_extractLoop_succ, extractLoop, h]
  simp only [hrest]

/-- Induction over the passes of an extraction: the loop stops, emits or drops, and each pass leaves a shorter buffer
(41_framebuffer.md R106). -/
theorem extraction_induction {P : List Byte → Prop} (stop : ∀ b, settled b = true → P b)
    (emit : ∀ b m rest, passOf b = .emit m rest → P rest → P b)
    (drop : ∀ b rest, passOf b = .drop rest → P rest → P b) (b : List Byte) : P b := by
  induction hn : b.length using Nat.strongRecOn generalizing b with
  | ind n ih =>
    subst hn
    cases hp : passOf b with
    | short => exact stop b (passOf_stops.mp (.inl hp))
    | wait => exact stop b (passOf_stops.mp (.inr hp))
    | emit m rest => exact emit b m rest hp (ih _ (passOf_shrinks (.inl ⟨m, hp⟩)) rest rfl)
    | drop rest => exact drop b rest hp (ih _ (passOf_shrinks (.inr hp)) rest rfl)

end Sys2Proof.Machine
end

section
/-! SUPPORT. What the passes take from the head of the stream, whatever follows (41_framebuffer.md R109 to R112). -/

namespace Sys2Proof.Machine

/-- The head declares the same length whatever follows it (30_encoding.md R62). -/
theorem declaredLength_append {b : List Byte} (y : List Byte) (h : 2 ≤ b.length) :
    declaredLength (b ++ y) = declaredLength b := by
  rw [declaredLength, frameLen, byteAt, List.getD_append _ _ _ _ h]
  rfl

section
variable {b rest : List Byte}

/-- The candidate is judged whatever follows it (41_framebuffer.md R110). -/
theorem candidate_append (y : List Byte) (h : settled b = false) :
    settled (b ++ y) = false ∧ candidate (b ++ y) = candidate b := by
  obtain ⟨hfive, hlen⟩ := settled_eq_false_iff.mp h
  have hdecl : declaredLength (b ++ y) = declaredLength b := declaredLength_append y (by omega)
  rw [settled_eq_false_iff, candidate, candidate, hdecl, bufTake_eq, bufTake_eq, List.take_append_of_le_length hlen,
    List.length_append]
  exact ⟨⟨by omega, by omega⟩, rfl⟩

theorem passOf_append_emit {m : Message} (y : List Byte) (h : passOf b = .emit m rest) :
    passOf (b ++ y) = .emit m (rest ++ y) := by
  obtain ⟨hb, hd, rfl⟩ := passOf_eq_emit.mp h
  obtain ⟨hb', hc⟩ := candidate_append y hb
  obtain ⟨hfive, hlen⟩ := settled_eq_false_iff.mp hb
  refine passOf_eq_emit.mpr ⟨hb', by rw [hc, hd], ?_⟩
  rw [declaredLength_append y (by omega), List.drop_append_of_le_length hlen]

theorem passOf_append_drop (y : List Byte) (h : passOf b = .drop rest) : passOf (b ++ y) = .drop (rest ++ y) := by
  obtain ⟨hb, hd, rfl⟩ := passOf_eq_drop.mp h
  obtain ⟨hb', hc⟩ := candidate_append y hb
  obtain ⟨hfive, -⟩ := settled_eq_false_iff.mp hb
  exact passOf_eq_drop.mpr ⟨hb', by rwa [hc], (List.drop_append_of_le_length (by omega)).symm⟩

/-- How the stream is cut does not matter: a pass on the first piece is a pass on the join (41_framebuffer.md R110). -/
theorem extractAll_append (x y : List Byte) :
    extractAll (x ++ y) =
      ((extractAll x).1 ++ (extractAll ((extractAll x).2 ++ y)).1, (extractAll ((extractAll x).2 ++ y)).2) := by
  induction x using extraction_induction with
  | stop x hx => rw [extractAll_of_settled hx, List.nil_append]
  | emit x m rest hp ih =>
    rw [extractAll_of_emit hp, extractAll_of_emit (passOf_append_emit y hp), ih, List.cons_append]
  | drop x rest hp ih => rw [extractAll_of_drop hp, extractAll_of_drop (passOf_append_drop y hp), ih]

/-- A pass that emits takes exactly the frame of its Message off the head (41_framebuffer.md R104; 40_codec.md R85). -/
theorem eq_append_of_emit {m : Message} (h : passOf b = .emit m rest) : b = encodeMessage m ++ rest := by
  obtain ⟨-, hd, rfl⟩ := passOf_eq_emit.mp h
  rw [encodeOfDecodeIsTheFrame _ _ hd]
  exact (List.take_append_drop _ b).symm

/-- A pass that drops takes a run of bytes off the head (41_framebuffer.md R105). -/
theorem eq_append_of_drop (h : passOf b = .drop rest) : b = b.take 1 ++ rest := by
  obtain ⟨-, -, rfl⟩ := passOf_eq_drop.mp h
  exact (List.take_append_drop 1 b).symm

end

/-- The head of a Message's frame declares the frame's length (30_encoding.md R62). -/
theorem declaredLength_encodeMessage (m : Message) : declaredLength (encodeMessage m) = (encodeMessage m).length := by
  rw [encodeMessage_length, encodeMessage_eq, declaredLength_frameBytes, lenByte_toNat m.fits]

/-- A Message's frame at the head is taken by the next pass (41_framebuffer.md R112). -/
theorem passOf_encodeMessage_append {m : Message} {x : List Byte} (h : 5 ≤ (encodeMessage m ++ x).length) :
    passOf (encodeMessage m ++ x) = .emit m x := by
  have hdecl : declaredLength (encodeMessage m ++ x) = (encodeMessage m).length :=
    (declaredLength_append x (by rw [encodeMessage_length]; omega)).trans (declaredLength_encodeMessage m)
  have hd : decodeFrame ((encodeMessage m ++ x).take (declaredLength (encodeMessage m ++ x))) = .ok m := by
    rw [hdecl, List.take_left, decodeOfEncodeIsTheMessage]
  rw [passOf_of_decodes h (by rw [hdecl, List.length_append]; exact Nat.le_add_right _ _) hd, hdecl, List.drop_left]

/-- Bytes in front of a stream join its first discarded run (41_framebuffer.md R109). -/
theorem exists_interleave_append (pre lastRun : List Byte) (runs : List (List Byte × Message)) :
    ∃ runs' lastRun', runs'.map Prod.snd = runs.map Prod.snd ∧
      interleave lastRun' runs' = pre ++ interleave lastRun runs := by
  cases runs with
  | nil => exact ⟨[], pre ++ lastRun, rfl, rfl⟩
  | cons first more =>
    obtain ⟨run, m⟩ := first
    exact ⟨(pre ++ run, m) :: more, lastRun, rfl, by simp [interleave]⟩

end Sys2Proof.Machine
end

section
/-! SUPPORT. INGEST of a reader that exists, and of a stream in pieces (41_framebuffer.md R110; 42_reader.md R120,
R121). -/

namespace Sys2Proof.Machine

/-- INGEST of a reader that exists completes (42_reader.md R120). -/
theorem exec_ingest_live {s : State} {r : ReaderId} {slot : Slot} {a : Reader} (bytes : List Byte)
    (h : s.Live r slot a) : exec (.ingest r bytes) s = .next (s.putSlot r (slot.deliver (a.absorb bytes))) :=
  onReader_live _ h.1 h.2

/-- Absorbing two pieces is absorbing their join (41_framebuffer.md R110). -/
theorem absorb_absorb (a : Reader) (x y : List Byte) : (a.absorb x).absorb y = a.absorb (x ++ y) := by
  have hcut := extractAll_append (a.buffer ++ x) y
  rw [List.append_assoc] at hcut
  simp [Reader.absorb, hcut]

/-- Delivering before more bytes are absorbed shows the same as delivering once after (42_reader.md R121). -/
theorem deliver_absorb_deliver (slot : Slot) (a : Reader) (y : List Byte) :
    ∃ a', (slot.deliver a).reader = some a' ∧
      (slot.deliver a).deliver (a'.absorb y) = slot.deliver (a.absorb y) := by
  cases ht : a.pushTarget with
  | none =>
    refine ⟨a, by rw [deliver_hold ht]; rfl, ?_⟩
    rw [deliver_hold ht, deliver_hold (a := a.absorb y) ht, deliver_hold (a := a.absorb y) ht]
    rfl
  | some l =>
    have hafter : (({ a with queue := [] } : Reader).absorb y).pushTarget = some l := ht
    refine ⟨{ a with queue := [] }, by rw [deliver_push ht]; rfl, ?_⟩
    rw [deliver_push ht, deliver_push hafter, deliver_push (a := a.absorb y) ht]
    simp [Reader.absorb, Slot.emit, Slot.putReader]

end Sys2Proof.Machine
end

section
/-! SUPPORT. The passes as steps of the machine, up to the outcome of the whole operation (41_framebuffer.md R101;
42_reader.md R120, R121; log 20). -/

namespace Sys2Proof.Machine

section
variable {s : State} {o : Option ReaderId} {b : List Byte} {ms : List Message}
variable (hact : s.activity = .extracting o b ms)
include hact

theorem exec_xShort (hp : passOf b = .short) : exec .xShort s = stopExtraction o b ms s := by
  refine (withExtraction_extracting _ hact).trans ?_
  rw [hp]

theorem exec_xWait (hp : passOf b = .wait) : exec .xWait s = stopExtraction o b ms s := by
  refine (withExtraction_extracting _ hact).trans ?_
  rw [hp]

theorem exec_xEmit {m : Message} {rest : List Byte} (hp : passOf b = .emit m rest) :
    exec .xEmit s = .next { s with activity := .extracting o rest (ms ++ [m]) } := by
  refine (withExtraction_extracting _ hact).trans ?_
  rw [hp]

theorem exec_xDrop {rest : List Byte} (hp : passOf b = .drop rest) :
    exec .xDrop s = .next { s with activity := .extracting o rest ms } := by
  refine (withExtraction_extracting _ hact).trans ?_
  rw [hp]

/-- In the loop a step is the pass that the buffer selects (41_framebuffer.md R106). -/
theorem step_extracting : step s = exec (passInstr b) s :=
  step_internal (by rw [State.internalInstr, hact])

/-- On a buffer that meets the stop condition a step stops the loop (41_framebuffer.md R102, R103). -/
theorem step_extracting_settled (h : settled b = true) : step s = stopExtraction o b ms s := by
  rw [step_extracting hact]
  obtain hp | hp := passOf_stops.mpr h
  · rw [passInstr, hp, exec_xShort hact hp]
  · rw [passInstr, hp, exec_xWait hact hp]

end

/-- A caller of EXTRACTALL is answered the messages and the remainder (41_framebuffer.md R101). -/
theorem stopExtraction_caller (b : List Byte) (ms : List Message) (s : State) :
    stopExtraction none b ms s = .next ({ s with activity := .idle }.answer (.extraction ms b)) :=
  rfl

/-- A reader's buffer and queue receive the remainder and the messages, and its delivery is next (42_reader.md R120). -/
theorem stopExtraction_live {s : State} {r : ReaderId} {slot : Slot} {a : Reader} (h : s.Live r slot a)
    (b : List Byte) (ms : List Message) :
    stopExtraction (some r) b ms s = .next ({ s with activity := .delivering r }.putSlot r
      (slot.putReader { a with buffer := b, queue := a.queue ++ ms })) :=
  onReader_live _ h.1 h.2

/-- The stop of the loop does not read what is in progress. -/
theorem stopExtraction_activity (owner : Option ReaderId) (b : List Byte) (ms : List Message) (s : State)
    (act : Activity) : stopExtraction owner b ms { s with activity := act } = stopExtraction owner b ms s := by
  cases owner <;> rfl

/-- What is in progress and the record of a reader are written apart. -/
theorem putSlot_withActivity (s : State) (r : ReaderId) (x : Slot) (act : Activity) :
    { s.putSlot r x with activity := act } = { s with activity := act }.putSlot r x :=
  rfl

theorem withActivity_self {s : State} {act : Activity} (h : s.activity = act) : { s with activity := act } = s := by
  rw [← h]

/-- Some number of steps leads from `s` to `t`. -/
def Reaches (s t : State) : Prop := ∃ n, core.run n s = .next t

theorem Reaches.refl (s : State) : Reaches s s := ⟨0, rfl⟩

theorem Reaches.head {s u t : State} (h : step s = .next u) : Reaches u t → Reaches s t :=
  fun ⟨n, hn⟩ => ⟨n + 1, (run_next n h).trans hn⟩

/-- The passes of a loop lead to its stop with the messages and the remainder of the whole extraction
(41_framebuffer.md R101, R106). -/
theorem extracting_reaches {owner : Option ReaderId} {s u t : State} (b : List Byte) (ms : List Message)
    (hstop : stopExtraction owner (extractAll b).2 (ms ++ (extractAll b).1) s = .next u) (h : Reaches u t) :
    Reaches { s with activity := .extracting owner b ms } t := by
  induction b using extraction_induction generalizing ms with
  | stop b hb =>
    rw [extractAll_of_settled hb, List.append_nil] at hstop
    refine .head ?_ h
    rw [step_extracting_settled rfl hb, stopExtraction_activity, hstop]
  | emit b m rest hp ih =>
    rw [extractAll_of_emit hp, List.append_cons] at hstop
    refine .head ?_ (ih (ms ++ [m]) hstop)
    rw [step_extracting rfl, passInstr, hp, exec_xEmit rfl hp]
  | drop b rest hp ih =>
    rw [extractAll_of_drop hp] at hstop
    refine .head ?_ (ih ms hstop)
    rw [step_extracting rfl, passInstr, hp, exec_xDrop rfl hp]

/-- In the delivery phase a step notifies while there is a Message to push, and else closes the phase (42_reader.md
R121). -/
theorem step_delivering {s : State} {r : ReaderId} (hact : s.activity = .delivering r) :
    step s = exec (if s.hasToNotify r then .notify r else .deliver r) s :=
  step_internal (by rw [State.internalInstr, hact])

/-- The record that is written does not read the reader that stood in it. -/
theorem deliver_putReader (slot : Slot) (old a : Reader) : (slot.putReader old).deliver a = slot.deliver a := by
  cases ht : a.pushTarget with
  | none => rw [deliver_hold ht, deliver_hold ht]; rfl
  | some l => rw [deliver_push ht, deliver_push ht]; rfl

/-- Pushing the oldest Message first does not change what is delivered (42_reader.md R121, R124). -/
theorem deliver_after_push {slot : Slot} {a : Reader} {l : Listener} {m : Message} {ms : List Message}
    (hl : a.pushTarget = some l) (hq : a.queue = m :: ms) :
    ((slot.putReader { a with queue := ms }).emit [notification l a.name m]).deliver { a with queue := ms } =
      slot.deliver a := by
  have hl' : ({ a with queue := ms } : Reader).pushTarget = some l := hl
  rw [deliver_push hl, deliver_push hl', hq]
  simp [Slot.emit, Slot.putReader]

section
variable {s : State} {r : ReaderId} {slot : Slot} {a : Reader}

theorem step_delivering_silent (hact : s.activity = .delivering r) (h : s.Live r slot a)
    (hn : a.pushTarget = none ∨ a.queue = []) :
    step s = .next ({ s with activity := .idle }.putSlot r (slot.deliver a)) := by
  have hsilent : s.hasToNotify r = false := by
    obtain hn | hn := hn <;> simp [State.hasToNotify, reader?_eq_some.mpr ⟨slot, h⟩, hn]
  rw [step_delivering hact, hsilent, if_neg Bool.false_ne_true, exec_deliver_live h, hact, Activity.afterDelivery,
    if_pos rfl]

theorem step_delivering_push {l : Listener} {m : Message} {ms : List Message} (hact : s.activity = .delivering r)
    (h : s.Live r slot a) (hl : a.pushTarget = some l) (hq : a.queue = m :: ms) :
    step s = .next (s.putSlot r ((slot.putReader { a with queue := ms }).emit [notification l a.name m])) := by
  have hpush : s.hasToNotify r = true := by
    simp [State.hasToNotify, reader?_eq_some.mpr ⟨slot, h⟩, hl, hq]
  rw [step_delivering hact, if_pos hpush, exec_notify_push h hl hq]

/-- The steps of a delivery lead to the whole delivery (42_reader.md R121). -/
theorem delivering_reaches (hact : s.activity = .delivering r) (h : s.Live r slot a) :
    Reaches s ({ s with activity := .idle }.putSlot r (slot.deliver a)) := by
  induction hq : a.queue generalizing s slot a with
  | nil => exact .head (step_delivering_silent hact h (.inr hq)) (.refl _)
  | cons m ms ih =>
    cases hl : a.pushTarget with
    | none => exact .head (step_delivering_silent hact h (.inl hl)) (.refl _)
    | some l =>
      refine .head (step_delivering_push hact h hl hq) ?_
      have hsame := putSlot_same ((slot.putReader { a with queue := ms }).emit [notification l a.name m]) h.1
      have hrest := ih (s := s.putSlot r _) (a := { a with queue := ms }) hact ⟨hsame, rfl⟩ rfl
      rwa [putSlot_withActivity, putSlot_putSlot, deliver_after_push hl hq] at hrest

/-- The passes of an INGEST lead to the stop of its loop, and then the steps of its delivery to the whole INGEST
(42_reader.md R120, R121). -/
theorem ingesting_reaches (bytes : List Byte) (h : s.Live r slot a) :
    Reaches { s with activity := .extracting (some r) (a.buffer ++ bytes) [] }
      ({ s with activity := .idle }.putSlot r (slot.deliver (a.absorb bytes))) := by
  have hdeliver := delivering_reaches (s := { s with activity := .delivering r }.putSlot r
    (slot.putReader (a.absorb bytes))) rfl ⟨putSlot_same (s := { s with activity := .delivering r }) _ h.1, rfl⟩
  rw [putSlot_withActivity, putSlot_putSlot, deliver_putReader] at hdeliver
  exact extracting_reaches _ [] (stopExtraction_live h _ _) hdeliver

end

end Sys2Proof.Machine
end

section
/-! The obligations about the extractor (41_framebuffer.md). -/

namespace Sys2Proof.Machine

/-- Settles O19: the selected pass says how the extraction goes on. -/
theorem extractAllIsTheFourStepLoop : Obligations.ExtractAllIsTheFourStepLoop := by
  refine ⟨fun b s => exec_extractall s b, fun b => ⟨fun hshort => ?_, fun _ hwait => ?_, fun hfive hlen m hd => ?_,
    fun hfive hlen hd => ?_⟩⟩
  · exact extractAll_of_settled (settled_iff.mpr (.inl hshort))
  · exact extractAll_of_settled (settled_iff.mpr (.inr hwait))
  · exact extractAll_of_emit (passOf_of_decodes hfive (Nat.add_le_of_le_sub (by omega) hlen) hd)
  · exact extractAll_of_drop (passOf_of_not_decodes hfive (Nat.add_le_of_le_sub (by omega) hlen) hd)

/-- Settles O25: the loop ends on a buffer that stops it, and a declared length is at most 257. -/
theorem remainderIsSettledAndIdempotent : Obligations.RemainderIsSettledAndIdempotent := by
  intro b r hr
  have hsettled : settled r = true := hr ▸ extractAll_settled b
  have hstops : r.length < 5 ∨ r.length - 2 < (r.getD 1 0#8).toNat := settled_iff.mp hsettled
  have hbyte : (r.getD 1 0#8).toNat < 256 := BitVec.isLt _
  exact ⟨by omega, by omega, extractAll_of_settled hsettled⟩

/-- Settles O26: a pass that emits takes the Message's frame, a byte that is dropped joins the run in front of it. -/
theorem extractionConservesTheStream : Obligations.ExtractionConservesTheStream := by
  intro b
  induction b using extraction_induction with
  | stop b hb => exact ⟨[], [], by rw [extractAll_of_settled hb]; exact ⟨rfl, rfl⟩⟩
  | emit b m rest hp ih =>
    obtain ⟨runs, lastRun, hruns, hrest⟩ := ih
    refine ⟨([], m) :: runs, lastRun, ?_, ?_⟩ <;> rw [extractAll_of_emit hp]
    · rw [List.map_cons, hruns]
    · rw [interleave, List.nil_append, List.append_assoc, ← hrest]
      exact eq_append_of_emit hp
  | drop b rest hp ih =>
    obtain ⟨runs, lastRun, hruns, hrest⟩ := ih
    obtain ⟨runs', lastRun', hmsgs, hpre⟩ := exists_interleave_append (b.take 1) lastRun runs
    refine ⟨runs', lastRun', ?_, ?_⟩ <;> rw [extractAll_of_drop hp]
    · rw [hmsgs, hruns]
    · rw [hpre, List.append_assoc, ← hrest]
      exact eq_append_of_drop hp

/-- Settles O27: every pass on `x` is a pass on `x ++ y`, until `x` stops the loop. -/
theorem extractionIgnoresChunking : Obligations.ExtractionIgnoresChunking :=
  extractAll_append

/-- Settles O28: the next pass takes that frame. -/
theorem validFrameAtTheHeadIsEmitted : Obligations.ValidFrameAtTheHeadIsEmitted :=
  fun _ _ hfive => extractAll_of_emit (passOf_encodeMessage_append hfive)

/-- Settles O41: the pieces are absorbed as their join, and delivered early or late. -/
theorem ingestIgnoresChunking : Obligations.IngestIgnoresChunking := by
  intro r x y s slot reader hlive
  obtain ⟨after, hafter, hdeliver⟩ := deliver_absorb_deliver slot (reader.absorb x) y
  refine ⟨_, exec_ingest_live x hlive, ?_⟩
  rw [exec_ingest_live y ⟨putSlot_same _ hlive.1, hafter⟩, exec_ingest_live (x ++ y) hlive, putSlot_putSlot, hdeliver,
    absorb_absorb]

/-- Settles O56: the passes lead to the stop of the loop, and a reader's steps of delivery to the whole delivery. -/
theorem passesRefineTheWholeOperation : Obligations.PassesRefineTheWholeOperation := by
  refine ⟨fun b s hidle => ?_, fun r bytes s slot reader hidle hlive => ?_⟩
  · obtain ⟨n, hn⟩ := extracting_reaches b [] (stopExtraction_caller _ _ s) (.refl _)
    rw [withActivity_self hidle] at hn
    exact ⟨n, hn⟩
  · obtain ⟨n, hn⟩ := ingesting_reaches bytes hlive
    rw [withActivity_self hidle] at hn
    exact ⟨n, hn.trans (exec_ingest_live bytes hlive).symm⟩

/-- Settles O18: the answer is the concatenation. -/
theorem appendConcatenates : Obligations.AppendConcatenates :=
  fun b x s => exec_append s b x

/-- Settles O20: fewer than five bytes select X_SHORT, which stops the loop. -/
theorem shortPassStopsTheLoop : Obligations.ShortPassStopsTheLoop := by
  intro b ms s hshort
  have hp := passOf_of_short hshort
  exact ⟨fun hact => exec_xShort hact hp,
    fun _ _ _ hlive hact => (exec_xShort hact hp).trans (stopExtraction_live hlive b ms)⟩

/-- Settles O21: a declared frame that is not all there selects X_WAIT, which stops the loop. -/
theorem waitPassStopsTheLoop : Obligations.WaitPassStopsTheLoop := by
  intro b ms s hfive hlen
  have hp := passOf_of_incomplete hfive hlen
  exact ⟨fun hact => exec_xWait hact hp,
    fun _ _ _ hlive hact => (exec_xWait hact hp).trans (stopExtraction_live hlive b ms)⟩

/-- Settles O22: a candidate that decodes selects X_EMIT. -/
theorem emitPassTakesTheFrame : Obligations.EmitPassTakesTheFrame :=
  fun _ _ _ _ _ hfive hlen hd hact => exec_xEmit hact (passOf_of_decodes hfive hlen hd)

/-- Settles O23: a candidate that does not decode selects X_DROP. -/
theorem dropPassRemovesOneByte : Obligations.DropPassRemovesOneByte :=
  fun _ _ _ _ hfive hlen hd hact => exec_xDrop hact (passOf_of_not_decodes hfive hlen hd)

/-- Settles O55: the command of the port is performed, and at the pass grain its loop is entered. -/
theorem passGrainEntersTheLoop : Obligations.PassGrainEntersTheLoop := by
  intro s rest hidle hturns hpass hwaits
  rw [step_port hidle hturns hwaits]
  refine ⟨fun b hd => ?_, fun r bytes hd => ?_⟩ <;> rw [takeCommand_ok perform hd]
  · exact perform_pass_extractall b hpass
  · have henter := perform_pass_ingest (s := { s with port := rest }) r bytes hpass
    exact ⟨fun _ _ hlive => perform_ingest_entersLoop bytes hlive hpass,
      fun hs => henter.trans (onReader_beforeStart _ hs),
      fun _ hs ha => henter.trans (onReader_afterStop _ hs ha)⟩

end Sys2Proof.Machine
end

section
/-! SUPPORT. Each operation on a reader that exists, in each of its cases: what its record becomes (42_reader.md R120 to
R124). -/

namespace Sys2Proof.Machine

/-- A reader does not push in passive mode or without a listener (60_exceptions.md R145). -/
theorem pushTarget_eq_none {a : Reader} : a.pushTarget = none ↔ a.mode = .passive ∨ a.listener = none := by
  cases hm : a.mode <;> simp [Reader.pushTarget, hm]

/-- The end of a reader's delivery makes its delivery idle and leaves any other operation as it is (log 23). -/
theorem afterDelivery_eq (act : Activity) (r : ReaderId) :
    act.afterDelivery r = if act = .delivering r then .idle else act := by
  cases act <;> simp [Activity.afterDelivery]

/-- A request can be granted that is for passive mode or gives a listener (42_reader.md R123). -/
theorem unpushable_eq_false {o : FullOptions} : o.unpushable = false ↔ o.active = false ∨ o.listener ≠ none := by
  cases ha : o.active <;> simp [FullOptions.unpushable, ha, Option.isSome_iff_ne_none]

/-- A request for active mode without a listener applies its name alone (42_reader.md R123). -/
theorem configure_unpushable (slot : Slot) (a : Reader) {o : FullOptions} (h : o.unpushable = true) :
    slot.configure a o = (slot.putReader { a with name := o.name }).reply (.error .configurationError) :=
  if_pos h

/-- Every other request applies all three fields (42_reader.md R123). -/
theorem configure_pushable (slot : Slot) (a : Reader) {o : FullOptions} (h : o.unpushable = false) :
    slot.configure a o = (slot.putReader
      { a with mode := Mode.ofActive o.active, listener := o.listener, name := o.name }).reply .ok :=
  if_neg (Bool.eq_false_iff.mp h)

section
variable {s : State} {r : ReaderId} {slot : Slot} {a : Reader} (h : s.Live r slot a)
include h

/-- INGEST of a reader that pushes shows the backlog and then the new Messages (42_reader.md R121). -/
theorem exec_ingest_push {l : Listener} (bytes : List Byte) (hl : a.pushTarget = some l) :
    exec (.ingest r bytes) s = .next (s.putSlot r
      ((slot.putReader { a with buffer := (extractAll (a.buffer ++ bytes)).2, queue := [] }).emit
        ((a.queue ++ (extractAll (a.buffer ++ bytes)).1).map (notification l a.name)))) := by
  rw [exec_ingest_live bytes h, deliver_push (a := a.absorb bytes) hl]
  rfl

/-- INGEST of a reader that does not push adds the new Messages to the queue (42_reader.md R120). -/
theorem exec_ingest_hold (bytes : List Byte) (hn : a.pushTarget = none) :
    exec (.ingest r bytes) s = .next (s.putSlot r (slot.putReader
      { a with
        buffer := (extractAll (a.buffer ++ bytes)).2
        queue := a.queue ++ (extractAll (a.buffer ++ bytes)).1 })) := by
  rw [exec_ingest_live bytes h, deliver_hold (a := a.absorb bytes) hn]
  rfl

/-- An active reader hands nothing over and keeps its queue (42_reader.md R122; D15). -/
theorem exec_drain_active (hm : a.mode = .active) :
    exec (.drain r) s = .next (s.putSlot r (slot.reply (.drained []))) := by
  refine (onReader_live _ h.1 h.2).trans ?_
  rw [hm]

/-- CONFIGURE with all three fields completes (42_reader.md R123). -/
theorem exec_configure_full (active : Bool) (l : Option Listener) (n : Name) :
    exec (.configure r ⟨some active, some l, some n⟩) s = .next (s.putSlot r (slot.configure a ⟨active, l, n⟩)) :=
  onReader_live _ h.1 h.2

end

/-- Two frames, the second with a payload, are their two Messages and leave nothing (42_reader.md R129). -/
theorem extractAll_two_frames (m1 m2 : Message) (h : m2.payload ≠ []) :
    extractAll (encodeMessage m1 ++ encodeMessage m2) = ([m1, m2], []) := by
  have hpos : 0 < m2.payload.length := List.length_pos_iff.mpr h
  have hfirst : extractAll (encodeMessage m1 ++ encodeMessage m2) =
      (m1 :: (extractAll (encodeMessage m2)).1, (extractAll (encodeMessage m2)).2) :=
    validFrameAtTheHeadIsEmitted _ _ (by simp only [List.length_append, encodeMessage_length]; omega)
  have hsecond : extractAll (encodeMessage m2 ++ []) = (m2 :: (extractAll []).1, (extractAll []).2) :=
    validFrameAtTheHeadIsEmitted _ _ (by simp only [List.append_nil, encodeMessage_length]; omega)
  rw [List.append_nil] at hsecond
  rw [hfirst, hsecond]
  rfl

end Sys2Proof.Machine
end

section
/-! The obligations about the reader (42_reader.md). -/

namespace Sys2Proof.Machine

/-- Settles O30: the reader has a target to push to, or it has none. -/
theorem ingestAppendsExtractsQueuesDelivers : Obligations.IngestAppendsExtractsQueuesDelivers := by
  intro r bytes s slot reader hlive
  refine ⟨fun l hmode hlistener => ?push, fun hhold => ?hold⟩
  case push => exact exec_ingest_push hlive bytes (pushTarget_eq_some.mpr ⟨hmode, hlistener⟩)
  case hold => exact exec_ingest_hold hlive bytes (pushTarget_eq_none.mpr hhold)

/-- Settles O35: the request is the one that cannot push, or it is not. -/
theorem configureAppliesAllOrTheNameAlone : Obligations.ConfigureAppliesAllOrTheNameAlone := by
  refine ⟨rfl, fun r active l n s slot reader hlive => ?_⟩
  rw [exec_configure_full hlive]
  refine ⟨?nameAlone, fun hall => ?all⟩
  case nameAlone =>
    rintro ⟨rfl, rfl⟩
    rw [configure_unpushable slot reader rfl]
    rfl
  case all =>
    rw [configure_pushable slot reader (unpushable_eq_false.mpr hall)]
    cases active <;> rfl

/-- Settles O38: the CONFIGURE leaves the queue, and a reader that pushes. -/
theorem backlogIsPushedAtTheNextIngest : Obligations.BacklogIsPushedAtTheNextIngest := by
  intro r l n bytes s slot reader hlive
  have hconfigure := exec_configure_full hlive true (some l) n
  rw [configure_pushable slot reader rfl] at hconfigure
  have hmid := putSlot_same ((slot.putReader
    { reader with mode := .active, listener := some l, name := n }).reply .ok) hlive.1
  exact ⟨_, _, _, _, hconfigure, hmid, rfl, rfl, exec_ingest_push ⟨hmid, rfl⟩ bytes rfl, putSlot_same _ hmid, rfl, rfl⟩

/-- Settles O39: the INGEST queues both Messages, the first DRAIN leaves an empty queue. -/
theorem twoFramesInOneIngestAreDrainedInOrder : Obligations.TwoFramesInOneIngestAreDrainedInOrder := by
  intro r m1 m2 s slot reader hlive hmode hbuffer hqueue hpayload
  have hingest := exec_ingest_hold hlive (encodeMessage m1 ++ encodeMessage m2) (pushTarget_eq_none.mpr (.inl hmode))
  rw [hbuffer, hqueue, List.nil_append, List.nil_append, extractAll_two_frames m1 m2 hpayload] at hingest
  have hlive' : (s.putSlot r (slot.putReader { reader with buffer := [], queue := [m1, m2] })).Live r _
      { reader with buffer := [], queue := [m1, m2] } := ⟨putSlot_same _ hlive.1, rfl⟩
  obtain ⟨u, v, after, hfirst, hsecond, hafter, hreplies⟩ := secondDrainReturnsNothing r _ _ _ hlive' hmode
  exact ⟨_, u, v, after, hingest, hfirst, hsecond, hafter, hreplies⟩

/-- Settles O31: the reader has a target to push to, or its record is written back as it was. -/
theorem deliverPushesTheQueueOrNothing : Obligations.DeliverPushesTheQueueOrNothing := by
  intro r s slot reader hlive
  rw [exec_deliver_live hlive, afterDelivery_eq]
  refine ⟨fun l hmode hlistener => ?push, fun hhold => ?hold⟩
  case push =>
    rw [deliver_push (pushTarget_eq_some.mpr ⟨hmode, hlistener⟩)]
    rfl
  case hold =>
    have hsame : slot.putReader reader = slot := by rw [Slot.putReader, ← hlive.2]
    rw [deliver_hold (pushTarget_eq_none.mpr hhold), hsame]
    exact congrArg Host.Outcome.next (putSlot_self hlive.1)

/-- Settles O32: there is a target and a Message to push, or nothing to notify of. -/
theorem notifyPushesTheOldestMessage : Obligations.NotifyPushesTheOldestMessage := by
  intro r s slot reader hlive
  refine ⟨fun l m queue hmode hlistener hqueue => ?push, fun hsilent => ?silent⟩
  case push => exact exec_notify_push hlive (pushTarget_eq_some.mpr ⟨hmode, hlistener⟩) hqueue
  case silent => exact exec_notify_silent hlive (by rwa [pushTarget_eq_none, or_assoc])

/-- Settles O33: by the mode. -/
theorem drainReturnsTheQueueInPassiveMode : Obligations.DrainReturnsTheQueueInPassiveMode :=
  fun _ _ _ _ hlive => ⟨exec_drain_passive hlive, exec_drain_active hlive⟩

end Sys2Proof.Machine
end

section
/-! SUPPORT. An operation on a reader that does not exist yet, and a port with no command to take
(60_exceptions.md R154, R156). -/

namespace Sys2Proof.Machine

/-- An operation on a reader before its START is refused (60_exceptions.md R154; D13, log 14). -/
theorem exec_beforeStart {i : Instr} {r : ReaderId} {s : State} (hi : OfReader i r) (hs : s.slots[r]? = none) :
    exec i s = .refused .beforeStart := by
  obtain ⟨k, hk⟩ := ofReader_onReader hi
  exact (hk s).trans (onReader_beforeStart _ hs)

/-- An empty port has no command to hand on (60_exceptions.md R156). -/
theorem takeCommand_empty {s : State} (k : Instr → State → Result) (h : s.port = []) : takeCommand s k = .next s := by
  rw [takeCommand, h]

/-- Bytes that are no command are refused, whatever a command would have been handed to (log 30). -/
theorem takeCommand_error {s : State} {why : Reject} (k : Instr → State → Result) (hp : s.port ≠ [])
    (hd : decode s.port = .error why) : takeCommand s k = .refused (.badCommand why) := by
  unfold takeCommand
  cases hport : s.port with
  | nil => exact absurd hport hp
  | cons c bytes => rw [hport] at hd; simp only [hd]

/-- An issue turn reads the port, whatever stands in it (10_state.md R29; log 19). -/
theorem step_issueTurn {s : State} {ts : List Turn} (ha : s.activity = .idle) (ht : s.turns = .issue :: ts) :
    step s = takeCommand { s with turns := ts } issue := by
  rw [step_idle ha, moveOn, ht]

end Sys2Proof.Machine
end

section
/-! The obligations about refusals and the idle machine (60_exceptions.md). -/

namespace Sys2Proof.Machine

/-- Settles O5: no record stands at an address no START has reached. -/
theorem operationsBeforeStartAreRefused : Obligations.OperationsBeforeStartAreRefused := by
  intro r s hunused
  have hnone : s.slots[r]? = none := List.getElem?_eq_none hunused
  refine ⟨fun bytes => ?_, ?_, fun o => ?_, ?_, ?_, ?_⟩ <;> exact exec_beforeStart (by simp [OfReader]) hnone

/-- Settles O50: either way the port is read, and it holds no command. -/
theorem bytesThatAreNoCommandAreRefused : Obligations.BytesThatAreNoCommandAreRefused := by
  intro s why hidle hread hport hd
  obtain ⟨hturns, hwaits⟩ | ⟨ts, hturns⟩ := hread
  · exact (step_port hidle hturns hwaits).trans (takeCommand_error perform hport hd)
  · exact (step_issueTurn hidle hturns).trans (takeCommand_error issue hport hd)

/-- Settles O54: the port is empty, or the mailbox of the turn's reader is. -/
theorem idleMachineStaysAsItIs : Obligations.IdleMachineStaysAsItIs := by
  intro s hidle
  refine ⟨fun hturns hport hwaits => ?nothingIssued, fun ts hturns hport => ?issueTurn,
    fun r ts hturns hnone => ?workTurn⟩
  case nothingIssued => exact (step_port hidle hturns hwaits).trans (takeCommand_empty perform hport)
  case issueTurn => exact (step_issueTurn hidle hturns).trans (takeCommand_empty issue hport)
  case workTurn => exact (step_work hidle hturns).trans (processHead_idle hnone)

end Sys2Proof.Machine
end

section
/-! SUPPORT. STOP by what waits in the mailbox, and operations after it (70_reset_and_hazards.md R161; D13, log 14). -/

namespace Sys2Proof.Machine

/-- The requests whose caller waits are DRAIN and CONFIGURE (20_memory.md R48). -/
theorem synchronous_iff {q : Request} : q.synchronous = true ↔ q = .drain ∨ ∃ o, q = .configure o := by
  cases q <;> simp [Request.synchronous]

/-- An operation on a reader after its STOP is refused (60_exceptions.md R154; D13, log 14). -/
theorem exec_afterStop {i : Instr} {r : ReaderId} {s : State} {slot : Slot} (hi : OfReader i r)
    (hs : s.slots[r]? = some slot) (hstopped : slot.reader = none) : exec i s = .refused .afterStop := by
  obtain ⟨k, hk⟩ := ofReader_onReader hi
  exact (hk s).trans (onReader_afterStop _ hs hstopped)

section
variable {s : State} {r : ReaderId} {slot : Slot} {a : Reader} (h : s.Live r slot a)
include h

/-- STOP with no caller waiting ends the reader and leaves what it has shown. -/
theorem exec_stop_noCaller (hnone : ∀ q ∈ a.mailbox, ¬ q.synchronous = true) :
    exec (.stop r) s = .next (s.putSlot r { slot with reader := none }) := by
  have hany : ¬ a.mailbox.any Request.synchronous = true := by
    rw [List.any_eq_true]
    rintro ⟨q, hq, hsync⟩
    exact hnone q hq hsync
  exact (onReader_live _ h.1 h.2).trans (if_neg hany)

/-- STOP with a caller waiting is refused. -/
theorem exec_stop_callerPending {q : Request} (hq : q ∈ a.mailbox) (hsync : q.synchronous = true) :
    exec (.stop r) s = .refused .callerPending :=
  (onReader_live _ h.1 h.2).trans (if_pos (List.any_eq_true.mpr ⟨q, hq, hsync⟩))

end

end Sys2Proof.Machine
end

section
/-! SUPPORT. How long a buffer can be on which the extractor stops, and the frame of four bytes among them
(41_framebuffer.md R102, R108). -/

namespace Sys2Proof.Machine

/-- A buffer on which the extractor stops is its own remainder, so shorter than the longest frame (41_framebuffer.md
R108). -/
theorem length_le_of_settled {b : List Byte} (h : settled b = true) : b.length ≤ 256 := by
  have hremainder : b = (extractAll b).2 := by rw [extractAll_of_settled h]
  obtain ⟨-, hlen, -⟩ := remainderIsSettledAndIdempotent b b hremainder
  exact hlen

/-- A frame without payload is held back at the end of the stream (41_framebuffer.md R102). -/
theorem extractAll_fourByteFrame {m : Message} (h : m.payload = []) :
    extractAll (encodeMessage m) = ([], encodeMessage m) :=
  extractAll_of_settled (settled_iff.mpr (.inl (by simp [h])))

/-- Any one byte after a frame releases its Message and stays (41_framebuffer.md R102, R112). -/
theorem extractAll_frame_byte (m : Message) (b : Byte) : extractAll (encodeMessage m ++ [b]) = ([m], [b]) := by
  have hstays : extractAll [b] = ([], [b]) := extractAll_of_settled (settled_iff.mpr (.inl (by simp)))
  rw [validFrameAtTheHeadIsEmitted m [b] (by simp), hstays]

/-- INGEST leaves the remainder of the extraction in the buffer, whether or not it delivers (42_reader.md R120). -/
theorem exec_ingest_buffer {s : State} {r : ReaderId} {slot : Slot} {a : Reader} (bytes : List Byte)
    (h : s.Live r slot a) :
    ∃ t after, exec (.ingest r bytes) s = .next t ∧ t.reader? r = some after ∧
      after.buffer = (extractAll (a.buffer ++ bytes)).2 := by
  obtain ⟨q, hq⟩ := deliver_reader slot (a.absorb bytes)
  exact ⟨_, _, exec_ingest_live bytes h, reader?_eq_some.mpr ⟨_, putSlot_same _ h.1, hq⟩, rfl⟩

end Sys2Proof.Machine
end

section
/-! SUPPORT. A step with operations waiting and no turn set (log 19). -/

namespace Sys2Proof.Machine

/-- The first reader with operations waiting comes before the port (20_memory.md R47). -/
theorem step_pending {s : State} {r : ReaderId} (ha : s.activity = .idle) (ht : s.turns = [])
    (hr : s.pendingReader? = some r) : step s = processHead r s := by
  rw [step_idle ha, moveOn, ht, hr]

end Sys2Proof.Machine
end

section
/-! The obligations about reset, stream hazards and waiting operations (70_reset_and_hazards.md). -/

namespace Sys2Proof.Machine

/-- Settles O3: no caller waits, and in the next state a stopped record stands at the address. -/
theorem stopEndsTheReaderForGood : Obligations.StopEndsTheReaderForGood := by
  intro r s slot reader hlive hingests
  have hnone : ∀ q ∈ reader.mailbox, ¬ q.synchronous = true := by
    intro q hq
    obtain ⟨bytes, rfl⟩ := hingests q hq
    exact Bool.false_ne_true
  have hstopped := putSlot_same { slot with reader := none } hlive.1
  refine ⟨_, exec_stop_noCaller hlive hnone, rfl, fun bytes => ?_, ?_, fun o => ?_, ?_, ?_, ?_⟩ <;>
    exact exec_afterStop (by simp [OfReader]) hstopped rfl

/-- Settles O29: a message of the extraction is taken off the head by some pass. -/
theorem everyMessageStoodInTheStream : Obligations.EveryMessageStoodInTheStream := by
  intro b m hm
  induction b using extraction_induction with
  | stop b hb =>
    rw [extractAll_of_settled hb] at hm
    cases hm
  | emit b m' rest hp ih =>
    rw [extractAll_of_emit hp] at hm
    rw [eq_append_of_emit hp]
    obtain rfl | hm := List.mem_cons.mp hm
    · exact ⟨[], rest, rfl⟩
    · exact (ih hm).trans (List.suffix_append _ _).isInfix
  | drop b rest hp ih =>
    rw [extractAll_of_drop hp] at hm
    rw [eq_append_of_drop hp]
    exact (ih hm).trans (List.suffix_append _ _).isInfix

/-- Settles O40: four bytes stop the loop, five emit the frame. -/
theorem trailingFourByteFrameIsHeldBack : Obligations.TrailingFourByteFrameIsHeldBack := by
  intro r m b s slot reader hlive hmode hbuffer hpayload
  have hhold := pushTarget_eq_none.mpr (.inl hmode)
  have hfirst := exec_ingest_hold hlive (encodeMessage m) hhold
  rw [hbuffer, List.nil_append, extractAll_fourByteFrame hpayload, List.append_nil] at hfirst
  have hmid := putSlot_same (slot.putReader { reader with buffer := encodeMessage m }) hlive.1
  have hsecond := exec_ingest_hold (a := { reader with buffer := encodeMessage m }) ⟨hmid, rfl⟩ [b] hhold
  rw [extractAll_frame_byte] at hsecond
  exact ⟨_, _, _, _, hfirst, hmid, rfl, hsecond, putSlot_same _ hmid, rfl⟩

/-- Settles O42: the buffer is a remainder before the INGEST and after it. -/
theorem bufferStaysWithinItsBound : Obligations.BufferStaysWithinItsBound := by
  intro r k bytes s slot reader hlive hsettled hk
  rw [slot_settled_of_reader hlive.2] at hsettled
  obtain ⟨t, after, hexec, hafter, hbuffer⟩ := exec_ingest_buffer bytes hlive
  refine ⟨?appended, t, after, hexec, hafter, ?remainder⟩
  case appended =>
    rw [bufAppend_eq, List.length_append]
    exact Nat.add_le_add (length_le_of_settled hsettled) hk
  case remainder =>
    obtain ⟨-, hlen, -⟩ := remainderIsSettledAndIdempotent _ _ hbuffer
    exact hlen

/-- Settles O53: the first reader with an operation waiting processes the head of its mailbox. -/
theorem waitingOperationsAreProcessedFirst : Obligations.WaitingOperationsAreProcessedFirst := by
  intro s r q qs slot reader hidle hturns hlive hq hbefore
  have hwaits : reader.mailbox ≠ [] := hq ▸ List.cons_ne_nil q qs
  rw [step_pending hidle hturns (pendingReader?_first hlive hwaits hbefore)]
  refine ⟨fun hatOnce => processHead_atOnce hlive hq hatOnce, ?_⟩
  rintro bytes hpass rfl
  exact processHead_entersLoop hlive hq hpass

/-- Settles O2: the new reader is `startedReader`, and each field is given or not. -/
theorem startCreatesAReaderAsConfigured : Obligations.StartCreatesAReaderAsConfigured := by
  intro o s
  refine ⟨startedReader o, rfl, rfl, rfl, rfl, ?mode, ?listener, ?name⟩
  case mode => rcases o with ⟨_ | _ | _, _, _⟩ <;> rfl
  case listener => rcases o with ⟨_, _ | _, _⟩ <;> rfl
  case name => rcases o with ⟨_, _, _ | _⟩ <;> rfl

/-- Settles O4: the request waits for its result. -/
theorem stopWithAWaitingCallerIsRefused : Obligations.StopWithAWaitingCallerIsRefused :=
  fun _ _ _ _ _ hlive hq hsync => exec_stop_callerPending hlive hq (synchronous_iff.mpr hsync)

end Sys2Proof.Machine
end
